-- ==== Sys2Proof/Word.lean ====
section
/-! DEFINITION. The words of the block and the plainest arithmetic on them (spec 00_scope.md, R5 and R6). -/

namespace Sys2Proof

/-- An element of `BUF` or `CHR`: 8 bits (R11, R13). -/
abbrev Byte := BitVec 8

/-- An element of `SYM`: an 11-bit dictionary index (R12, R68). -/
abbrev Symbol := BitVec 11

/-- The data of one host access: `XLEN_BUS = 32` bits (R5, R40). -/
abbrev Word := BitVec 32

/-- A byte address of the register space: 10 bits (R40). -/
abbrev Addr := BitVec 10

/-- `L` of R5: the seed's length in bytes. -/
abbrev seedLen : Nat := 17

/-- `NSYM` of R5: symbols in a phrase. -/
abbrev nsym : Nat := 12

/-- `SYMW` of R5: bits in a symbol. -/
abbrev symWidth : Nat := 11

/-- `DICT` of R5: dictionary entries, one for each value of a symbol. -/
abbrev dictSize : Nat := 2048

/-- `PAD` of R5: padding bits of a seed. -/
abbrev padBits : Nat := 4

/-- `RADIX` of R5. -/
abbrev radix : Nat := 58

/-- `mask(n) = (1 << n) - 1` (R6, R87). -/
def mask (n : Nat) : Nat := (1 <<< n) - 1

end Sys2Proof
end

