-- ==== Sys2Proof/Syntax.lean ====
section
/-! DEFINITION. The commands of the block: one constructor for each row of spec/opcode_table.json. -/

namespace Sys2Proof

/-- The four operations (R1, R61). Operands are implicit (R63), so no constructor has a field. -/
inductive Instr where
  /-- Mnemonic encode, 17 bytes to 12 symbols (R81). -/
  | mnenc
  /-- Mnemonic decode, 12 symbols to 17 bytes (R82). -/
  | mndec
  /-- Base-58 encode, bytes to characters (R101). -/
  | b58enc
  /-- Base-58 decode, characters to bytes (R102). -/
  | b58dec
deriving DecidableEq, Repr

end Sys2Proof
end

