-- ==== Sys2Proof/Config.lean ====
section
/-! DEFINITION. What a build of the block fixes, the free value of its reads, and the vocabulary of the
register port and of the host (R5, R41, R66, R67). -/

namespace Sys2Proof

/-- The open parameters of R5: constants of the build (R142, R152). They are carried in the state so that a
statement about every state is about every value of them (DESIGN CHOICE, log entry 1). -/
structure Params where
  /-- `B58_NB`, the capacity of `BUF` in bytes. -/
  nb : Nat
  /-- `B58_NC`, the capacity of `CHR` in characters. -/
  nc : Nat
  /-- `ALPHABET`: entry `d` is the character code of the digit `d` (R69). -/
  alphabet : Vector Byte 58
deriving DecidableEq, Repr

/-- The result "any 32-bit value" of a read (R44, R48, R140; S1 to S3): draw number `n`. No body: nothing can be
proved of a value of it (DESIGN CHOICE, log entry 3). -/
opaque Config.anyRead : Nat → Word

/-- The registers of the address map (R41). `buf i` and `chr j` exist below the capacities only
(`Reg.present`). -/
inductive Reg where
  | cmd
  | status
  | err
  | blen
  | scnt
  | clen
  | acc
  | cnt
  | buf (i : Nat)
  | sym (k : Fin 12)
  | chr (j : Nat)
deriving DecidableEq, Repr

/-- One step of the host's program: a register access (R66), or the polling loop `WAIT` (R67). -/
inductive HostOp where
  /-- `MemRead(addr, 4)`. -/
  | rd (addr : Addr)
  /-- `MemWrite(addr, 4, v)`. -/
  | wr (addr : Addr) (v : Word)
  /-- `RD STATUS` repeated until the value read has bit 0 clear. -/
  | wait
deriving DecidableEq, Repr

/-- Who moves next: an event of the total order of R49, or the release of the reset line (R140). -/
inductive Turn where
  | host
  | engine
  /-- `rst_n` goes low. -/
  | assertReset
  /-- `rst_n` goes high. -/
  | releaseReset
deriving DecidableEq, Repr

/-- A value in the host's notation: a number, or a character that stands for its code (R66). -/
inductive HostValue where
  | num (v : Word)
  | chr (c : Char)
deriving DecidableEq, Repr

/-- A line of a host program as the spec writes it: `WR`, `RD` (R66) and the pseudo-instructions of R67. -/
inductive HostLine where
  | wr (r : Reg) (v : HostValue)
  | rd (r : Reg)
  | cmd (i : Instr)
  | wait
  | clrh
  | ldb (bytes : List Byte)
  | lds (symbols : List Symbol)
  | ldc (text : List Char)
deriving DecidableEq, Repr

end Sys2Proof
end

