-- ==== Sys2Proof/WellFormed.lean ====
section
/-! DEFINITION. Checks on raw data: the parameters of a build (R5), commands, and lines of the host's notation
(R66, R67). -/

namespace Sys2Proof

/-- A command has no operand fields (R63), so every one is well formed. -/
def Instr.wf : Instr → Bool
  | .mnenc => true
  | .mndec => true
  | .b58enc => true
  | .b58dec => true

/-- `17 <= B58_NB <= 64` (R5). -/
def Params.nbOk (p : Params) : Bool := decide (seedLen ≤ p.nb) && decide (p.nb ≤ 64)

/-- `1 <= B58_NC <= 64` (R5). -/
def Params.ncOk (p : Params) : Bool := decide (1 ≤ p.nc) && decide (p.nc ≤ 64)

/-- The 58 entries of `ALPHABET` are distinct (R69). -/
def Params.alphabetOk (p : Params) : Bool := decide p.alphabet.toList.Nodup

/-- The constraints of R5 and R69 on the parameters. -/
def Params.wf (p : Params) : Bool := p.nbOk && p.ncOk && p.alphabetOk

/-- The address map holds the register: array slots below the array's capacity (R41). -/
def Reg.present (p : Params) : Reg → Bool
  | .buf i => decide (i < p.nb)
  | .chr j => decide (j < p.nc)
  | .cmd | .status | .err | .blen | .scnt | .clen | .acc | .cnt | .sym _ => true

/-- The character has an 8-bit code (R69). -/
def charOk (c : Char) : Bool := decide (c.toNat < 256)

/-- A value of the host's notation is a number or a character with an 8-bit code (R66). -/
def HostValue.wf : HostValue → Bool
  | .num _ => true
  | .chr c => charOk c

/-- A line names registers that exist (R66), and loads no more elements than its buffer has (R67). -/
def HostLine.wf (p : Params) : HostLine → Bool
  | .wr r v => r.present p && v.wf
  | .rd r => r.present p
  | .cmd i => i.wf
  | .wait => true
  | .clrh => true
  | .ldb bs => decide (bs.length ≤ p.nb)
  | .lds ss => decide (ss.length ≤ nsym)
  | .ldc cs => decide (cs.length ≤ p.nc) && cs.all charOk

end Sys2Proof
end

