-- ==== Sys2Proof/Decode.lean ====
section
/-! DEFINITION. Encodings (spec 30_encoding.md): the command word and its decoder, the encoder, the opcode latch,
and the character codes of the alphabet. -/

namespace Sys2Proof

/-- Why a word written to `CMD` is no command. The block treats both alike, as IllegalCommand (R64). -/
inductive Reject where
  /-- Bits 31:8 are not zero (R60). -/
  | upperField
  /-- Bits 7:0 are none of the four opcodes (R61). -/
  | undefinedOpcode
deriving DecidableEq, Repr

/-- The decoder of command words: total, and it matches the whole 32-bit word (R60, R61, R64). -/
def decode (w : Word) : Except Reject Instr :=
  if w.toNat / 256 ≠ 0 then .error .upperField
  else if w.toNat = 0x01 then .ok .mnenc
  else if w.toNat = 0x02 then .ok .mndec
  else if w.toNat = 0x03 then .ok .b58enc
  else if w.toNat = 0x04 then .ok .b58dec
  else .error .undefinedOpcode

/-- The opcode map of R61. -/
def opcode : Instr → BitVec 8
  | .mnenc => 0x01#8
  | .mndec => 0x02#8
  | .b58enc => 0x03#8
  | .b58dec => 0x04#8

/-- The command word of an operation: the opcode in bits 7:0 below a zero field (R60). -/
def encode (i : Instr) : Word := 0#24 ++ opcode i

/-- What the issue latches in `OPL`: bits 2:0 of the command word (R62). -/
def latchOf (w : Word) : BitVec 3 := w.setWidth 3

/-- The operation that `OPL` selects at the commit (R62), where it names one. -/
def latchedInstr (o : BitVec 3) : Option Instr := (decode (o.setWidth 32)).toOption

/-- The host's question: the instruction in an `nbits`-bit table word. A command is one 32-bit word, bit 0 of the
table being bit 0 of the word (R60). -/
def decodeTableWord (nbits w : Nat) : Option Instr :=
  if w % 2 ^ nbits < 2 ^ 32 then (decode (BitVec.ofNat 32 (w % 2 ^ nbits))).toOption else none

/-- The 8-bit code of a character of the host's notation: its ASCII code (R66, R69). -/
def charCode (c : Char) : Byte := BitVec.ofNat 8 c.toNat

/-- The default `ALPHABET` (R69), in ASCII: digits without `0`, capitals without `I` and `O`, small letters without
`l`. PRESUMED by the spec itself (its G1 and G2): log entry 2. -/
def defaultAlphabet : Vector Byte 58 :=
  #v[0x31, 0x32, 0x33, 0x34, 0x35, 0x36, 0x37, 0x38, 0x39, 0x41,
     0x42, 0x43, 0x44, 0x45, 0x46, 0x47, 0x48, 0x4A, 0x4B, 0x4C,
     0x4D, 0x4E, 0x50, 0x51, 0x52, 0x53, 0x54, 0x55, 0x56, 0x57,
     0x58, 0x59, 0x5A, 0x61, 0x62, 0x63, 0x64, 0x65, 0x66, 0x67,
     0x68, 0x69, 0x6A, 0x6B, 0x6D, 0x6E, 0x6F, 0x70, 0x71, 0x72,
     0x73, 0x74, 0x75, 0x76, 0x77, 0x78, 0x79, 0x7A]

/-- The default parameters of R5. -/
def defaultParams : Params := { nb := 24, nc := 33, alphabet := defaultAlphabet }

end Sys2Proof
end

