-- ==== Sys2Proof/Machine/State.lean ====
section
/-! DEFINITION. The state of the block (R10) and of what stands around it, the block after reset (R28), and the
reasons a step can stop. -/

namespace Sys2Proof.Machine

/-- The block's own state: the complete list of R10, and nothing else. -/
structure Block where
  /-- `BUF[0 .. B58_NB-1]` (R11). -/
  buf : List Byte
  /-- `SYM[0 .. 11]` (R12). -/
  sym : Vector Symbol 12
  /-- `CHR[0 .. B58_NC-1]` (R13). -/
  chr : List Byte
  /-- `BLEN` (R14). -/
  blen : BitVec 7
  /-- `SCNT` (R15). -/
  scnt : BitVec 4
  /-- `CLEN` (R16). -/
  clen : BitVec 7
  /-- `STATUS.BUSY` (R18). -/
  busy : Bool
  /-- `STATUS.HERR` (R18). -/
  herr : Bool
  /-- `ERR[3:0]` (R19). -/
  err : BitVec 4
  /-- `ACC` (R20). -/
  acc : BitVec 18
  /-- `CNT` (R21). -/
  cnt : BitVec 5
  /-- `OPL` (R22). -/
  opl : BitVec 3
deriving DecidableEq, Repr

/-- The machine: the block, the constants of its build, the level of its reset pin, and its host. -/
structure State where
  /-- The build's constants (R5): no step writes them (R152). Model's own field: log entry 1. -/
  cfg : Params
  /-- The block's state (R10). -/
  blk : Block
  /-- The level of `rst_n` (R40, R140): false while reset is held. -/
  rstN : Bool
  /-- The host's remaining accesses (R151). Model's own field: log entry 4. -/
  program : List HostOp
  /-- Who moves next, first first; the order of events the spec leaves open (R62, R147). Model's own field: log
  entry 5. -/
  turns : List Turn
  /-- What the host's reads returned, newest first. Model's own field: log entry 9. -/
  reads : List Word
  /-- How many any-value reads have been made. Model's own field: log entry 3. -/
  draws : Nat
deriving DecidableEq, Repr

/-- The block after reset: every element of every buffer and every register is 0 (R28). -/
def Block.reset (p : Params) : Block :=
  { buf := List.replicate p.nb 0#8
    sym := Vector.replicate 12 0#11
    chr := List.replicate p.nc 0#8
    blen := 0#7
    scnt := 0#4
    clen := 0#7
    busy := false
    herr := false
    err := 0#4
    acc := 0#18
    cnt := 0#5
    opl := 0#3 }

/-- The machine right after reset, with the default parameters (R5): the block is idle (R140), `rst_n` is released,
and the host has made no access and has none to make. -/
def State.reset : State :=
  { cfg := defaultParams
    blk := Block.reset defaultParams
    rstN := true
    program := []
    turns := []
    reads := []
    draws := 0 }

/-- The errors a command can end with (R121). They are results, written to `ERR`; no step stops on one (R151). -/
inductive OpError where
  | lengthError
  /-- Reserved for host software; the block never writes it. -/
  | unknownWordError
  /-- Its check stands in `MNDEC` and cannot fire (R85). -/
  | packingError
  | decodeError
  | capacityError
  | illegalCommand
deriving DecidableEq, Repr

/-- Why the machine stops. -/
inductive Fault where
  /-- Raised by `engineTurn` alone: `BUSY = 1` with an `OPL` that names no command. The spec gives no effect there,
  because no issue can leave it so (R62). Safe: the model stops, and no run from a state with the invariant
  `RunInv` reaches it. DESIGN CHOICE, log entry 7. -/
  | latchNotACommand
deriving DecidableEq, Repr

/-- Why an instruction has no meaning. -/
inductive Refusal where
  /-- Raised by an arm of `exec` for an instruction without a meaning; no arm does so. Safe: the model stops. -/
  | notModelled (mnemonic : String)
deriving DecidableEq, Repr

end Sys2Proof.Machine
end

