-- ==== Sys2Proof/Machine/Flags.lean ====
section
/-! DEFINITION. The block's flags: `STATUS` and the code in `ERR`. There are no others (R29). -/

namespace Sys2Proof.Machine

/-- `STATUS` as it is read: `HERR` in bit 1, `BUSY` in bit 0, zero above (R18, R48). -/
def statusWord (b : Block) : Word :=
  (if b.herr then 2#32 else 0#32) ||| (if b.busy then 1#32 else 0#32)

/-- The code of an error in `ERR[3:0]` (R121). -/
def OpError.code : OpError → BitVec 4
  | .lengthError => 1#4
  | .unknownWordError => 2#4
  | .packingError => 3#4
  | .decodeError => 4#4
  | .capacityError => 5#4
  | .illegalCommand => 6#4

/-- `STATUS.HERR <- 1`, the mark of an illegal host access (R126). -/
def Block.setHerr (b : Block) : Block := { b with herr := true }

/-- `STATUS.HERR <- 0` (R127). -/
def Block.clearHerr (b : Block) : Block := { b with herr := false }

end Sys2Proof.Machine
end

