-- ==== Sys2Proof/Machine/Operands.lean ====
section
/-! DEFINITION. The implicit operands of the operations (R63, R53), and the conventions on sequences and integers
they are read with (R6, R70). -/

namespace Sys2Proof.Machine

/-- `BUF[0..16]`, the seed (R81). -/
def seedBytes (b : Block) : List Byte := b.buf.take seedLen

/-- `BUF[0 .. BLEN-1]`, the valid bytes (R11, R101). -/
def validBytes (b : Block) : List Byte := b.buf.take b.blen.toNat

/-- `CHR[0 .. CLEN-1]`, the valid characters (R13, R102). -/
def validChars (b : Block) : List Byte := b.chr.take b.clen.toNat

/-- `lz(s, x)`: how many leading elements of `s` equal `x` (R6). -/
def lz (s : List Byte) (x : Byte) : Nat := (s.takeWhile (fun c => c == x)).length

/-- `be(s)`: the big-endian value of a byte sequence (R6). -/
def be (s : List Byte) : Nat := s.foldl (fun v b => 256 * v + b.toNat) 0

/-- The digits of `n` in radix `r`, least significant first, until the value is 0: no digit for 0. `fuel` at least
`n` is enough for a radix of 2 or more. -/
def digitsFrom (r : Nat) : Nat → Nat → List Nat
  | 0, _ => []
  | fuel + 1, n => if n = 0 then [] else n % r :: digitsFrom r fuel (n / r)

/-- `minbytes(n)`: the minimal big-endian bytes of `n`, none for 0 (R6). -/
def minbytes (n : Nat) : List Byte := (digitsFrom 256 n n).reverse.map (BitVec.ofNat 8)

/-- `ALPHABET[d]`, the character of the digit `d`. Every caller's `d` is below 58. -/
def digitChar (p : Params) (d : Nat) : Byte := p.alphabet[(Fin.ofNat 58 d).val]

/-- `digit_value(c)`: the digit whose character is `c`, or none (R70). -/
def digitValue (p : Params) (c : Byte) : Option Nat :=
  ((List.finRange 58).find? (fun d => p.alphabet[d.val] == c)).map Fin.val

/-- The digit values of a text, or none when some character has none (R102, DecodeError). -/
def digitValues (p : Params) : List Byte → Option (List Nat)
  | [] => some []
  | c :: t =>
    match digitValue p c, digitValues p t with
    | some d, some ds => some (d :: ds)
    | _, _ => none

/-- `A[i] <- new[i]` for every element of `new`; the other elements of the buffer keep their values, and it keeps its
capacity (R27, R145). -/
def overwrite {α : Type} : List α → List α → List α
  | [], old => old
  | _ :: _, [] => []
  | x :: xs, _ :: old => x :: overwrite xs old

/-- `SYM[k] <- out[k]` for `k = 0 .. 11` (R81). -/
def symbolVector (out : List Nat) : Vector Symbol 12 :=
  Vector.ofFn fun k => BitVec.ofNat 11 (out.getD k.val 0)

end Sys2Proof.Machine
end

