-- ==== Sys2Proof/Machine/Ops.lean ====
section
/-! DEFINITION. The shared operations on the registers: how an operation ends (R62, R124), the address map (R41), and
reading and writing one register (R44, R45). -/

namespace Sys2Proof.Machine

/-- The end of a successful operation: its results stand in `b` already, and `ERR` and `BUSY` fall with them (R62). -/
def Block.succeed (b : Block) : Block := { b with err := 0#4, busy := false }

/-- `raise <Error>`: the block's one exception entry. It writes `ERR` and `BUSY` and nothing else; no mode changes,
nothing is saved, and control goes nowhere (R124). There is no return from it (R125). -/
def Block.raise (e : OpError) (b : Block) : Block := { b with err := e.code, busy := false }

/-- A word written to `CMD` while idle: the issue of a command (R62), or IllegalCommand, which writes `ERR` only
(R64). -/
def Block.command (w : Word) (b : Block) : Block :=
  match decode w with
  | .ok _ => { b with opl := latchOf w, busy := true }
  | .error _ => { b with err := OpError.illegalCommand.code }

/-- The byte addresses of the array elements (R41). -/
def bufAddr (i : Nat) : Addr := BitVec.ofNat 10 (0x100 + 4 * i)

@[inherit_doc bufAddr]
def symAddr (k : Nat) : Addr := BitVec.ofNat 10 (0x200 + 4 * k)

@[inherit_doc bufAddr]
def chrAddr (j : Nat) : Addr := BitVec.ofNat 10 (0x300 + 4 * j)

/-- The byte address of a register (R41). -/
def addrOf : Reg → Addr
  | .cmd => 0x000#10
  | .status => 0x004#10
  | .err => 0x008#10
  | .blen => 0x00C#10
  | .scnt => 0x010#10
  | .clen => 0x014#10
  | .acc => 0x018#10
  | .cnt => 0x01C#10
  | .buf i => bufAddr i
  | .sym k => symAddr k.val
  | .chr j => chrAddr j

/-- The eight control registers, by word index (R41). -/
def controlRegAt : Nat → Option Reg
  | 0 => some .cmd
  | 1 => some .status
  | 2 => some .err
  | 3 => some .blen
  | 4 => some .scnt
  | 5 => some .clen
  | 6 => some .acc
  | 7 => some .cnt
  | _ => none

/-- The register at a byte address, or none where the address is unmapped: outside the table, not a multiple of 4, or
an array slot at or above the capacity (R41, R42). -/
def regAt (p : Params) (a : Addr) : Option Reg :=
  if a.toNat % 4 ≠ 0 then none
  else if a.toNat < 0x100 then controlRegAt (a.toNat / 4)
  else if a.toNat < 0x200 then
    if (a.toNat - 0x100) / 4 < p.nb then some (.buf ((a.toNat - 0x100) / 4)) else none
  else if a.toNat < 0x300 then
    if h : (a.toNat - 0x200) / 4 < 12 then some (.sym ⟨(a.toNat - 0x200) / 4, h⟩) else none
  else
    if (a.toNat - 0x300) / 4 < p.nc then some (.chr ((a.toNat - 0x300) / 4)) else none

/-- `W` of R45: how many valid data bits the register has. For `CMD` it is 32 in the test of a legal write. -/
def validBits : Reg → Nat
  | .cmd => 32
  | .status => 2
  | .err => 4
  | .blen => 7
  | .scnt => 4
  | .clen => 7
  | .acc => 18
  | .cnt => 5
  | .buf _ => 8
  | .sym _ => 11
  | .chr _ => 8

/-- `ERR`, `ACC` and `CNT` are read only to the host (R41, R45). -/
def readOnly : Reg → Bool
  | .err | .acc | .cnt => true
  | .cmd | .status | .blen | .scnt | .clen | .buf _ | .sym _ | .chr _ => false

/-- The conditions R45 puts on the value for three registers. -/
def valueOk (p : Params) (v : Word) : Reg → Bool
  | .blen => decide (v.toNat ≤ p.nb)
  | .clen => decide (v.toNat ≤ p.nc)
  | .status => v == 0#32 || v == 2#32
  | .cmd | .err | .scnt | .acc | .cnt | .buf _ | .sym _ | .chr _ => true

/-- `legal(addr, v)` of R45, for the mapped register at `addr`. -/
def writeLegal (p : Params) (r : Reg) (v : Word) : Bool :=
  !readOnly r && v >>> validBits r == 0#32 && valueOk p v r

/-- The value of a register, extended with zero bits to 32; `CMD` reads as 0 (R44). A slot at or above the capacity
is never asked for (`regAt`), and reads as 0 here. -/
def readReg (b : Block) : Reg → Word
  | .cmd => 0#32
  | .status => statusWord b
  | .err => b.err.setWidth 32
  | .blen => b.blen.setWidth 32
  | .scnt => b.scnt.setWidth 32
  | .clen => b.clen.setWidth 32
  | .acc => b.acc.setWidth 32
  | .cnt => b.cnt.setWidth 32
  | .buf i => (b.buf.getD i 0#8).setWidth 32
  | .sym k => (b.sym[k.val]).setWidth 32
  | .chr j => (b.chr.getD j 0#8).setWidth 32

/-- What a legal write does (R45): `CMD` decodes the word, `STATUS` clears `HERR` on 2, a data or length register
takes its valid bits. A write to a read-only register is never legal, and does nothing here. -/
def writeReg (r : Reg) (v : Word) (b : Block) : Block :=
  match r with
  | .cmd => b.command v
  | .status => if v = 2#32 then b.clearHerr else b
  | .err | .acc | .cnt => b
  | .blen => { b with blen := v.setWidth 7 }
  | .scnt => { b with scnt := v.setWidth 4 }
  | .clen => { b with clen := v.setWidth 7 }
  | .buf i => { b with buf := b.buf.set i (v.setWidth 8) }
  | .sym k => { b with sym := b.sym.set k.val (v.setWidth 11) k.isLt }
  | .chr j => { b with chr := b.chr.set j (v.setWidth 8) }

end Sys2Proof.Machine
end

