-- ==== Sys2Proof/Machine/Base58.lean ====
section
/-! DEFINITION. `B58ENC` and `B58DEC` (spec 41_base58.md), by the pseudocode of R101 and R102, on integers of
arbitrary size (R105). -/

namespace Sys2Proof.Machine

/-- The text of `B58ENC`: one zero digit for each leading zero byte, then the remainders of the repeated division by
58, reversed (R101). -/
def base58Text (p : Params) (b : List Byte) : List Byte :=
  List.replicate (lz b 0#8) (digitChar p 0) ++ ((digitsFrom radix (be b) (be b)).reverse.map (digitChar p))

/-- `acc = acc*58 + digit_value(c)`, folded from the left (R102). -/
def foldDigits (ds : List Nat) : Nat := ds.foldl (fun acc d => acc * radix + d) 0

/-- The bytes of `B58DEC`, or none when some character is no digit (R102). -/
def base58Bytes (p : Params) (t : List Byte) : Option (List Byte) :=
  match digitValues p t with
  | none => none
  | some ds =>
    some (List.replicate (lz t (digitChar p 0)) 0#8 ++ minbytes (foldDigits (ds.drop (lz t (digitChar p 0)))))

/-- The commit of `B58ENC` (R101). -/
def b58encCommit (p : Params) (b : Block) : Block :=
  if p.nc < (base58Text p (validBytes b)).length then b.raise .capacityError
  else
    Block.succeed
      { b with
        chr := overwrite (base58Text p (validBytes b)) b.chr
        clen := BitVec.ofNat 7 (base58Text p (validBytes b)).length }

/-- The commit of `B58DEC`: the alphabet is tested before the capacity (R102, R123). -/
def b58decCommit (p : Params) (b : Block) : Block :=
  match base58Bytes p (validChars b) with
  | none => b.raise .decodeError
  | some bs =>
    if p.nb < bs.length then b.raise .capacityError
    else Block.succeed { b with buf := overwrite bs b.buf, blen := BitVec.ofNat 7 bs.length }

/-- `B58ENC`: what the engine does at the commit of a started base-58 encode (R62, R101). -/
def execB58enc (s : State) : Host.Outcome State Fault Refusal := .next { s with blk := b58encCommit s.cfg s.blk }

/-- `B58DEC`: what the engine does at the commit of a started base-58 decode (R62, R102). -/
def execB58dec (s : State) : Host.Outcome State Fault Refusal := .next { s with blk := b58decCommit s.cfg s.blk }

end Sys2Proof.Machine
end

