-- ==== Sys2Proof/Machine/Mnemonic.lean ====
section
/-! DEFINITION. `MNENC` and `MNDEC` (spec 40_mnemonic.md), by the accumulator algorithms of R81 and R82. The working
values are unbounded naturals (R6, U5; log entry 11). -/

namespace Sys2Proof.Machine

/-- The working values of R81 and R82: the bit accumulator, the bit count, and what has been emitted. -/
structure BitStream where
  acc : Nat
  cnt : Nat
  out : List Nat
deriving DecidableEq, Repr

/-- Both algorithms start empty (R81, R82; N6). -/
def BitStream.start : BitStream := { acc := 0, cnt := 0, out := [] }

/-- Shift an element of `w` bits in from the right. -/
def BitStream.shiftIn (w v : Nat) (t : BitStream) : BitStream :=
  { t with acc := (t.acc <<< w) ||| v, cnt := t.cnt + w }

/-- Take the top `w` bits out as one emitted element. -/
def BitStream.emit (w : Nat) (t : BitStream) : BitStream :=
  { acc := t.acc &&& mask (t.cnt - w), cnt := t.cnt - w, out := t.out ++ [t.acc >>> (t.cnt - w)] }

/-- One byte of the loop of `MNENC` (R81). -/
def packByte (t : BitStream) (b : Byte) : BitStream :=
  if symWidth ≤ (t.shiftIn 8 b.toNat).cnt then (t.shiftIn 8 b.toNat).emit symWidth
  else t.shiftIn 8 b.toNat

/-- The inner `while cnt >= 8` of `MNDEC` (R82); `fuel` at least the bit count is enough. -/
def emitBytes : Nat → BitStream → BitStream
  | 0, t => t
  | fuel + 1, t => if 8 ≤ t.cnt then emitBytes fuel (t.emit 8) else t

/-- One symbol of the loop of `MNDEC` (R82). -/
def unpackSymbol (t : BitStream) (k : Symbol) : BitStream :=
  emitBytes (t.cnt + symWidth) (t.shiftIn symWidth k.toNat)

/-- The loop of `MNENC` over the bytes of the seed (R81). -/
def pack (bs : List Byte) : BitStream := bs.foldl packByte .start

/-- The loop of `MNDEC` over the symbols (R82). -/
def unpack (ss : List Symbol) : BitStream := ss.foldl unpackSymbol .start

/-- The final byte of `MNDEC`: the leftover bits in the upper nibble (R82). -/
def lastByte (acc : Nat) : Nat := (acc <<< padBits) &&& 0xFF

/-- The commit of `MNENC` (R81). -/
def mnencCommit (b : Block) : Block :=
  if b.blen.toNat ≠ seedLen then b.raise .lengthError
  else
    Block.succeed
      { b with
        sym := symbolVector (pack (seedBytes b)).out
        scnt := BitVec.ofNat 4 nsym
        acc := BitVec.ofNat 18 (pack (seedBytes b)).acc
        cnt := BitVec.ofNat 5 (pack (seedBytes b)).cnt }

/-- The 17 bytes of `MNDEC` (R82). -/
def unpackedSeed (ss : List Symbol) : List Byte :=
  ((unpack ss).out ++ [lastByte (unpack ss).acc]).map (BitVec.ofNat 8)

/-- The commit of `MNDEC` (R82). The leftover test is the document's and cannot fire (R85). -/
def mndecCommit (b : Block) : Block :=
  if b.scnt.toNat ≠ nsym then b.raise .lengthError
  else if (unpack b.sym.toList).cnt ≠ padBits then b.raise .packingError
  else
    Block.succeed
      { b with
        buf := overwrite (unpackedSeed b.sym.toList) b.buf
        blen := BitVec.ofNat 7 seedLen
        acc := BitVec.ofNat 18 (unpack b.sym.toList).acc
        cnt := BitVec.ofNat 5 (unpack b.sym.toList).cnt }

/-- `MNENC`: what the engine does at the commit of a started mnemonic encode (R62, R81). -/
def execMnenc (s : State) : Host.Outcome State Fault Refusal := .next { s with blk := mnencCommit s.blk }

/-- `MNDEC`: what the engine does at the commit of a started mnemonic decode (R62, R82). -/
def execMndec (s : State) : Host.Outcome State Fault Refusal := .next { s with blk := mndecCommit s.blk }

end Sys2Proof.Machine
end

