-- ==== Sys2Proof/Machine/Dispatch.lean ====
section
/-! DEFINITION. One arm for each command: its commit (R62). -/

namespace Sys2Proof.Machine

def exec (i : Instr) (s : State) : Host.Outcome State Fault Refusal :=
  match i with
  | .mnenc => Sys2Proof.Machine.execMnenc s
  | .mndec => Sys2Proof.Machine.execMndec s
  | .b58enc => Sys2Proof.Machine.execB58enc s
  | .b58dec => Sys2Proof.Machine.execB58dec s

end Sys2Proof.Machine
end

