-- ==== Sys2Proof/Machine/HostPort.lean ====
section
/-! DEFINITION. The register port: host reads and writes, idle, busy and under reset (R44, R45, R48, R140), and the
reset line. -/

namespace Sys2Proof.Machine

/-- The address of `STATUS` (R41). -/
abbrev statusAddr : Addr := 0x004#10

/-- The address of `CMD` (R41). -/
abbrev cmdAddr : Addr := 0x000#10

/-- An illegal access marks the block and does nothing else (R126). -/
def State.markHerr (s : State) : State := { s with blk := s.blk.setHerr }

/-- The host has read the value `v`. -/
def State.gotRead (v : Word) (s : State) : State := { s with reads := v :: s.reads }

/-- The host has read any value: a fresh draw of the free value (S1 to S3). -/
def State.gotAnyRead (s : State) : State :=
  { s with reads := Config.anyRead s.draws :: s.reads, draws := s.draws + 1 }

/-- A host read. While reset is held it returns any value and has no effect (R140); while `BUSY = 1` only `STATUS` may
be read (R48); else a mapped register's value is returned, and an unmapped address is an illegal access (R44). -/
def hostRead (a : Addr) (s : State) : State :=
  if s.rstN = false then s.gotAnyRead
  else if s.blk.busy then
    if a = statusAddr then s.gotRead (statusWord s.blk) else s.gotAnyRead.markHerr
  else
    match regAt s.cfg a with
    | none => s.gotAnyRead.markHerr
    | some r => s.gotRead (readReg s.blk r)

/-- A host write. While reset is held it has no effect (R140); while `BUSY = 1` it is dropped and marked (R48); else a
legal one takes effect and an illegal one is dropped and marked (R45). -/
def hostWrite (a : Addr) (v : Word) (s : State) : State :=
  if s.rstN = false then s
  else if s.blk.busy then s.markHerr
  else
    match regAt s.cfg a with
    | none => s.markHerr
    | some r =>
      if writeLegal s.cfg r v then { s with blk := writeReg r v s.blk } else s.markHerr

/-- The latest read returned a value whose bit 0 is 0: the polling loop of `WAIT` is over (R67). -/
def pollDone (s : State) : Bool :=
  match s.reads with
  | [] => false
  | v :: _ => !v.getLsbD 0

/-- The host's move: its next access; `WAIT` stays in the program until its read of `STATUS` shows `BUSY = 0`
(R66, R67). A host whose program is over makes no access (R151). -/
def hostMove (s : State) : State :=
  match s.program with
  | [] => s
  | .rd a :: rest => { hostRead a s with program := rest }
  | .wr a v :: rest => { hostWrite a v s with program := rest }
  | .wait :: rest =>
    if pollDone (hostRead statusAddr s) then { hostRead statusAddr s with program := rest }
    else hostRead statusAddr s

/-- `rst_n` goes low: every piece of the block's state becomes 0, a running operation is abandoned (R28, R140,
R141). The host and the build's constants are not the block's. -/
def State.assertReset (s : State) : State := { s with blk := Block.reset s.cfg, rstN := false }

/-- `rst_n` goes high: the block, idle since the assertion, takes accesses again (R140). -/
def State.releaseReset (s : State) : State := { s with rstN := true }

end Sys2Proof.Machine
end

