-- ==== Sys2Proof/Machine/Engine.lean ====
section
/-! DEFINITION. The moves of the agents (R49, R62, R140), and a command placed where the next step runs it. -/

namespace Sys2Proof.Machine

/-- The engine's move: the commit of the operation that `OPL` selects, enabled exactly when `BUSY = 1` (R62). -/
def engineTurn (s : State) : Host.Outcome State Fault Refusal :=
  if s.blk.busy then
    match latchedInstr s.blk.opl with
    | some i => exec i s
    | none => .fault .latchNotACommand
  else .next s

/-- One event of the total order (R49). -/
def takeTurn (t : Turn) (s : State) : Host.Outcome State Fault Refusal :=
  match t with
  | .host => .next (hostMove s)
  | .engine => engineTurn s
  | .assertReset => .next s.assertReset
  | .releaseReset => .next s.releaseReset

/-- Whose move comes next: the first of the turns; when none is listed, a started operation commits, else the host
moves. So a commit that stays enabled happens (R147, weak fairness; log entry 5). -/
def nextTurn (s : State) : Turn :=
  match s.turns with
  | t :: _ => t
  | [] => if s.blk.busy then .engine else .host

/-- The state with the turn about to be taken struck off. -/
def State.popTurn (s : State) : State := { s with turns := s.turns.tail }

/-- A legal command as its issue leaves it: latched and busy (R62), the engine to move. -/
def State.issued (w : Word) (s : State) : State :=
  { s with
    blk := { s.blk with opl := latchOf w, busy := true }
    turns := if s.turns = [] then [] else .engine :: s.turns }

/-- A word the host is about to write to `CMD` of the idle block. -/
def State.aboutToWriteCmd (w : Word) (s : State) : State :=
  { s with
    blk := { s.blk with busy := false }
    rstN := true
    program := .wr cmdAddr w :: s.program
    turns := if s.turns = [] then [] else .host :: s.turns }

/-- A command word placed where the next step runs it: a command as issued; any other word as the host's next write
to `CMD`, which the step answers with IllegalCommand (log entry 6). -/
def placeCommand (w : Word) (s : State) : State :=
  match decode w with
  | .ok _ => s.issued w
  | .error _ => s.aboutToWriteCmd w

end Sys2Proof.Machine
end

