-- ==== Sys2Proof/Machine/ClosedForms.lean ====
section
/-! DEFINITION. The closed forms the spec gives beside the algorithms: the packing convention of R80 and the pure
functions Encode and Decode of R100. The meanings of the commands do not use them; the statements compare the meanings
with them. -/

namespace Sys2Proof.Machine

/-- `SYM[k] = S[135 - 11*k : 125 - 11*k]` (R80). -/
def symbolField (S k : Nat) : Symbol := BitVec.ofNat 11 (S >>> (125 - 11 * k))

/-- The twelve symbols of the 136-bit seed value `S` (R80). -/
def symbolsOfSeed (S : Nat) : Vector Symbol 12 := Vector.ofFn fun k => symbolField S k.val

/-- The seed value of twelve symbols, padding 0: the first symbol at the top, 11 bits each, then 4 zero bits, that is
`(SYM[0] << 125) | (SYM[1] << 114) | ... | (SYM[11] << 4)` (R80). -/
def seedOfSymbols (sym : Vector Symbol 12) : Nat := sym.toList.foldl (fun v x => v * 2048 + x.toNat) 0 * 16

/-- The 17 big-endian bytes of a 136-bit seed value. -/
def bytesOfSeed (S : Nat) : List Byte := (List.range 17).map fun i => BitVec.ofNat 8 (S >>> (128 - 8 * i))

/-- `digits58(n)`: the base-58 digits of `n`, most significant first, none for 0 (R100). -/
def digits58 (p : Params) (n : Nat) : List Byte := (Nat.digits 58 n).reverse.map (digitChar p)

/-- `value58(t)` of a string of digits (R100). -/
def value58 (p : Params) (t : List Byte) : Nat :=
  Nat.ofDigits 58 (t.map fun c => (digitValue p c).getD 0).reverse

/-- `Encode(b)` (R100). -/
def encodeBytes (p : Params) (b : List Byte) : List Byte :=
  List.replicate (lz b 0#8) (digitChar p 0) ++ digits58 p (be b)

/-- `Decode(t)`, for a string of digits (R100). -/
def decodeText (p : Params) (t : List Byte) : List Byte :=
  List.replicate (lz t (digitChar p 0)) 0#8 ++ ((Nat.digits 256 (value58 p t)).reverse.map (BitVec.ofNat 8))

/-- Every character of the string is in `ALPHABET`: the domain of Decode (R100). -/
abbrev IsText (p : Params) (t : List Byte) : Prop := ∀ c ∈ t, c ∈ p.alphabet.toList

end Sys2Proof.Machine
end

