-- ==== Sys2Proof/Machine/HostNotation.lean ====
section
/-! DEFINITION. The host's notation: each line of a program as the accesses it stands for (R66, R67). -/

namespace Sys2Proof.Machine

/-- The data of a value of the notation: a number, or a character's code (R66). -/
def hostValue : HostValue → Word
  | .num v => v
  | .chr c => (charCode c).setWidth 32

/-- The writes of a list of elements to consecutive slots from index `i` (R67). -/
def storeFrom (slot : Nat → Addr) : Nat → List Word → List HostOp
  | _, [] => []
  | i, v :: vs => .wr (slot i) v :: storeFrom slot (i + 1) vs

/-- The accesses a line stands for (R66, R67). -/
def expand : HostLine → List HostOp
  | .wr r v => [.wr (addrOf r) (hostValue v)]
  | .rd r => [.rd (addrOf r)]
  | .cmd i => [.wr (addrOf .cmd) (encode i)]
  | .wait => [.wait]
  | .clrh => [.wr (addrOf .status) 2#32]
  | .ldb bs =>
    storeFrom bufAddr 0 (bs.map (BitVec.setWidth 32)) ++ [.wr (addrOf .blen) (BitVec.ofNat 32 bs.length)]
  | .lds ss =>
    storeFrom symAddr 0 (ss.map (BitVec.setWidth 32)) ++ [.wr (addrOf .scnt) (BitVec.ofNat 32 ss.length)]
  | .ldc cs =>
    storeFrom chrAddr 0 (cs.map (fun c => (charCode c).setWidth 32)) ++
      [.wr (addrOf .clen) (BitVec.ofNat 32 cs.length)]

/-- The accesses of a whole program. -/
def expandAll (ls : List HostLine) : List HostOp := ls.flatMap expand

end Sys2Proof.Machine
end

