-- ==== Sys2Proof/Safety.lean ====
section
/-! DEFINITION. The terms claims are made in: well-formed states, the invariant of every run (R31), what a run is and
when it is over (R151), and the host's side of the contract (R143). -/

namespace Sys2Proof.Machine

/-- The buffers have their capacities, and the length registers stay within them (R11, R13, R14, R16). -/
abbrev Block.fits (p : Params) (b : Block) : Prop :=
  b.buf.length = p.nb ∧ b.chr.length = p.nc ∧ b.blen.toNat ≤ p.nb ∧ b.clen.toNat ≤ p.nc

/-- A well-formed state: parameters of R5, and a block that fits them. -/
abbrev State.wf (s : State) : Prop := s.cfg.wf = true ∧ s.blk.fits s.cfg

/-- `ACC`, `CNT` and `ERR` hold only the values of R31. -/
abbrev Block.codesOk (b : Block) : Prop :=
  (b.cnt = 0#5 ∨ b.cnt = 4#5) ∧ b.acc.toNat < 16 ∧
    (b.err = 0#4 ∨ b.err = 1#4 ∨ b.err = 4#4 ∨ b.err = 5#4 ∨ b.err = 6#4)

/-- The invariant of every run: R31, an `OPL` that names the started operation while `BUSY = 1` (R62), and a block at
its reset values while reset is held (R140). -/
abbrev RunInv (s : State) : Prop :=
  s.wf ∧ s.blk.codesOk ∧ (s.blk.busy = true → (latchedInstr s.blk.opl).isSome = true) ∧
    (s.rstN = false → s.blk = Block.reset s.cfg)

/-- `k` steps of the machine. -/
def runFor (k : Nat) (s : State) : Host.Outcome State Fault Refusal := Host.Core.run Sys2Proof.core k s

/-- A run is over when the host has made its last access and `BUSY = 0` (R151). -/
abbrev State.over (s : State) : Prop := s.program = [] ∧ s.blk.busy = false

/-- The block takes the host's accesses: reset is released and no operation runs. -/
abbrev State.idle (s : State) : Prop := s.rstN = true ∧ s.blk.busy = false

/-- The turns to come hold no reset (R152: a claim says where a reset occurs). -/
abbrev State.noReset (s : State) : Prop := Turn.assertReset ∉ s.turns

/-- A read of `STATUS`, the one access a host may make at any time (R48, R143, R149). -/
def readsStatus : HostOp → Bool
  | .rd a => a == statusAddr
  | .wait => true
  | .wr _ _ => false

/-- The accesses of a host program other than its reads of `STATUS`. -/
def dataAccesses (ops : List HostOp) : List HostOp := ops.filter fun op => !readsStatus op

/-- A host program whose text alone keeps R143: after the write of a legal command it reads only `STATUS` until a
`WAIT`, or makes no other access. `issued` says that a command has been written and not yet waited for. -/
def disciplinedFrom : Bool → List HostOp → Bool
  | _, [] => true
  | _, .wait :: rest => disciplinedFrom false rest
  | issued, .rd a :: rest => (!issued || a == statusAddr) && disciplinedFrom issued rest
  | issued, .wr a v :: rest => !issued && disciplinedFrom (a == cmdAddr && (decode v).isOk) rest

/-- A host program whose text alone keeps R143, started on an idle block. -/
def disciplined (ops : List HostOp) : Bool := disciplinedFrom false ops

/-- The access the next step makes, if it makes one, is a read of `STATUS` or is made with `BUSY = 0` (R143, R150). -/
def accessKeepsBusyRule (s : State) : Bool :=
  decide (nextTurn s ≠ .host) || !s.blk.busy || s.program.head?.all readsStatus

/-- R150's premise on a run of `k` steps: every access other than a read of `STATUS` is made with `BUSY = 0`. -/
def keepsBusyRule : Nat → State → Bool
  | 0, _ => true
  | k + 1, s =>
    accessKeepsBusyRule s &&
      match step s with
      | .next t => keepsBusyRule k t
      | .fault _ => true
      | .refused _ => true

end Sys2Proof.Machine
end

