-- ==== Sys2Proof/Certificates/Slice0/Obligations.lean ====
section
/-! DEFINITION. The statements for the provers, each from the numbered rules of the spec. -/

open Sys2Proof Sys2Proof.Machine

/-! ### Encodings -/

/-- R60, R61: the four command words, and no other word decodes to a command (the whole word is matched). -/
def Obligations.CommandWordsAreExact : Prop :=
  ∀ w : Word,
    (decode w = .ok .mnenc ↔ w = 0x00000001#32) ∧ (decode w = .ok .mndec ↔ w = 0x00000002#32) ∧
    (decode w = .ok .b58enc ↔ w = 0x00000003#32) ∧ (decode w = .ok .b58dec ↔ w = 0x00000004#32)

/-- R61: words written out from the opcode map, and words beside them. -/
def Obligations.WrittenOutWordsDecode : Prop :=
  decode 0b00000000000000000000000000000001#32 = .ok .mnenc ∧
  decode 0b00000000000000000000000000000010#32 = .ok .mndec ∧
  decode 0b00000000000000000000000000000011#32 = .ok .b58enc ∧
  decode 0b00000000000000000000000000000100#32 = .ok .b58dec ∧
  decode 0b00000000000000000000000100000001#32 = .error .upperField ∧
  decode 0b00000000000000000000000000000101#32 = .error .undefinedOpcode

/-- The decoder reads back what the encoder writes, and the encoder writes back every command the decoder reads. -/
def Obligations.DecodeAndEncodeAgree : Prop :=
  ∀ (i : Instr) (w : Word), i.wf = true → (decode w = .ok i ↔ w = encode i)

/-- R62: the three bits latched at the issue select at the commit the operation that was issued, and nothing but a
latched command word's bits selects one. -/
def Obligations.LatchSelectsTheIssuedOperation : Prop :=
  (∀ (w : Word) (i : Instr), decode w = .ok i → latchedInstr (latchOf w) = some i) ∧
  (∀ (o : BitVec 3) (i : Instr), latchedInstr o = some i → o = latchOf (encode i))

/-- R41: the address map, both ways: a register that exists stands at its address and nothing else stands there. -/
def Obligations.AddressMapIsExact : Prop :=
  ∀ (p : Params) (a : Addr) (r : Reg), p.wf = true →
    (regAt p a = some r ↔ (r.present p = true ∧ a = addrOf r))

/-- R42: an address that is not a multiple of 4 is unmapped: a read or a write of it is neither split nor rounded down,
and has the one effect of an access to an unmapped address. -/
def Obligations.MisalignedIsUnmapped : Prop :=
  ∀ (s : State) (a : Addr) (rest : List HostOp), a.toNat % 4 ≠ 0 →
    regAt s.cfg a = none ∧
    (nextTurn s = .host → s.idle →
      (∀ v, s.program = .wr a v :: rest →
        step s = .next { s.popTurn with program := rest, blk := { s.blk with herr := true } }) ∧
      (s.program = .rd a :: rest → ∃ v n, step s = .next { s.popTurn with
        program := rest, blk := { s.blk with herr := true }, reads := v :: s.reads, draws := n }))

/-- R70: `digit_value` is the unique digit of a character, where there is one. -/
def Obligations.DigitValueIsTheUniqueDigit : Prop :=
  ∀ (p : Params) (c : Byte), p.wf = true →
    (∀ (d : Nat) (hd : d < 58), digitValue p c = some d ↔ p.alphabet[d] = c) ∧
    (digitValue p c = none ↔ c ∉ p.alphabet.toList) ∧
    (∀ d, digitValue p c = some d → d < 58)

/-- R69: the default alphabet has 58 distinct ASCII codes, `'1'` first, without `0`, `O`, `I` and `l`. The order is the
spec's from general knowledge (log entry 2). -/
def Obligations.DefaultAlphabetIsLegal : Prop :=
  defaultAlphabet.toList.Nodup ∧ (∀ c ∈ defaultAlphabet.toList, c.toNat < 128) ∧
  defaultAlphabet[0] = 0x31#8 ∧
  0x30#8 ∉ defaultAlphabet.toList ∧ 0x4F#8 ∉ defaultAlphabet.toList ∧
  0x49#8 ∉ defaultAlphabet.toList ∧ 0x6C#8 ∉ defaultAlphabet.toList

/-! ### Steps: issue and commit -/

/-- R62: at the engine's move with `BUSY = 1` the step is the commit of the operation `OPL` selects, that is, `exec` of
it; while `BUSY = 0` the engine has no move. -/
def Obligations.StepRunsTheLatchedInstruction : Prop :=
  ∀ s : State, nextTurn s = .engine →
    (s.blk.busy = true → ∀ i, latchedInstr s.blk.opl = some i → step s = exec i s.popTurn) ∧
    (s.blk.busy = false → step s = .next s.popTurn)

/-- R62, issue: the host's write of a command word to `CMD` of an idle block latches bits 2:0 and sets `BUSY`, and
changes nothing else. -/
def Obligations.CommandWriteIssues : Prop :=
  ∀ (s : State) (w : Word) (i : Instr) (rest : List HostOp),
    nextTurn s = .host → s.idle → s.program = .wr 0x000#10 w :: rest → decode w = .ok i →
    step s = .next { s.popTurn with
      program := rest, blk := { s.blk with opl := latchOf w, busy := true } }

/-- R64: every other word written to `CMD` of an idle block sets `ERR` to 6 and does nothing else, whatever is wrong
with it; while `BUSY = 1` any word is a host access error and leaves `ERR` alone. -/
def Obligations.IllegalCommandWritesErrOnly : Prop :=
  ∀ (s : State) (w : Word) (rest : List HostOp),
    nextTurn s = .host → s.rstN = true → s.program = .wr 0x000#10 w :: rest →
    (s.blk.busy = false → (w ≠ 1#32 ∧ w ≠ 2#32 ∧ w ≠ 3#32 ∧ w ≠ 4#32) →
      step s = .next { s.popTurn with program := rest, blk := { s.blk with err := 6#4 } }) ∧
    (s.blk.busy = true → step s = .next { s.popTurn with program := rest, blk := { s.blk with herr := true } })

/-- A command word placed with `withFetchWord` is run by the very next step (the model's own placing, log entry 6). -/
def Obligations.PlacedCommandRunsNext : Prop :=
  ∀ (s : State) (w : Word) (i : Instr), decode w = .ok i →
    step (s.withFetchWord 32 w.toNat) =
      exec i { s with blk := { s.blk with opl := latchOf w, busy := true } }

/-! ### Host accesses -/

/-- R44: a read of an idle block returns the register's value extended with zero bits (0 for `CMD`) and changes nothing;
a read of an unmapped address returns some value and sets `HERR`, and nothing else. (`draws` counts the model's free
values, log entry 3.) -/
def Obligations.IdleReadReturnsTheRegister : Prop :=
  (∀ (s : State) (a : Addr) (rest : List HostOp),
    nextTurn s = .host → s.idle → s.program = .rd a :: rest →
    (regAt s.cfg a = none → ∃ v n, step s = .next { s.popTurn with
      program := rest, blk := { s.blk with herr := true }, reads := v :: s.reads, draws := n }) ∧
    (∀ r, regAt s.cfg a = some r → step s = .next { s.popTurn with
      program := rest, reads := readReg s.blk r :: s.reads })) ∧
  (∀ (b : Block),
    readReg b .cmd = 0#32 ∧ (readReg b .status).toNat = 2 * b.herr.toNat + b.busy.toNat ∧
    (readReg b .err).toNat = b.err.toNat ∧ (readReg b .blen).toNat = b.blen.toNat ∧
    (readReg b .scnt).toNat = b.scnt.toNat ∧ (readReg b .clen).toNat = b.clen.toNat ∧
    (readReg b .acc).toNat = b.acc.toNat ∧ (readReg b .cnt).toNat = b.cnt.toNat ∧
    (∀ (i : Nat) (h : i < b.buf.length), (readReg b (.buf i)).toNat = b.buf[i].toNat) ∧
    (∀ k : Fin 12, (readReg b (.sym k)).toNat = b.sym[k.val].toNat) ∧
    (∀ (j : Nat) (h : j < b.chr.length), (readReg b (.chr j)).toNat = b.chr[j].toNat))

/-- R48: while `BUSY = 1` a read of `STATUS` returns it and changes nothing; every other read returns some value and
sets `HERR`; every write is dropped and sets `HERR`. (`draws` counts the model's free values, log entry 3.) -/
def Obligations.BusyAccessesTouchHerrOnly : Prop :=
  ∀ (s : State) (rest : List HostOp),
    nextTurn s = .host → s.rstN = true → s.blk.busy = true →
    (s.program = .rd 0x004#10 :: rest → step s = .next { s.popTurn with
      program := rest, reads := (if s.blk.herr then 3#32 else 1#32) :: s.reads }) ∧
    (∀ a, a ≠ 0x004#10 → s.program = .rd a :: rest → ∃ v n, step s = .next { s.popTurn with
      program := rest, blk := { s.blk with herr := true }, reads := v :: s.reads, draws := n }) ∧
    (∀ a v, s.program = .wr a v :: rest → step s = .next { s.popTurn with
      program := rest, blk := { s.blk with herr := true } })

/-- S1 to S3 (R44, R48, R140): each read whose value the spec leaves open returns a fresh draw of the free value; the
counter of draws is the model's (log entry 3). -/
def Obligations.OpenReadsDrawFreshValues : Prop :=
  ∀ (s : State) (a : Addr) (rest : List HostOp),
    nextTurn s = .host → s.program = .rd a :: rest →
    (s.rstN = false ∨ (s.blk.busy = true ∧ a ≠ 0x004#10) ∨ (s.blk.busy = false ∧ regAt s.cfg a = none)) →
    ∃ t, step s = .next t ∧ t.reads = Config.anyRead s.draws :: s.reads ∧ t.draws = s.draws + 1

/-- R45 for the array elements: a value that fits is written; one with a bit above the valid bits is dropped, not
truncated, and sets `HERR`. -/
def Obligations.IdleWritesToBuffers : Prop :=
  ∀ (s : State) (v : Word) (rest : List HostOp),
    nextTurn s = .host → s.idle → s.cfg.wf = true →
    (∀ i, i < s.cfg.nb → s.program = .wr (BitVec.ofNat 10 (0x100 + 4 * i)) v :: rest →
      step s = .next { s.popTurn with program := rest, blk :=
        if v.toNat < 256 then { s.blk with buf := s.blk.buf.set i (v.setWidth 8) }
        else { s.blk with herr := true } }) ∧
    (∀ (k : Nat) (hk : k < 12), s.program = .wr (BitVec.ofNat 10 (0x200 + 4 * k)) v :: rest →
      step s = .next { s.popTurn with program := rest, blk :=
        if v.toNat < 2048 then { s.blk with sym := s.blk.sym.set k (v.setWidth 11) hk }
        else { s.blk with herr := true } }) ∧
    (∀ j, j < s.cfg.nc → s.program = .wr (BitVec.ofNat 10 (0x300 + 4 * j)) v :: rest →
      step s = .next { s.popTurn with program := rest, blk :=
        if v.toNat < 256 then { s.blk with chr := s.blk.chr.set j (v.setWidth 8) }
        else { s.blk with herr := true } })

/-- R45, R14 to R16 for the length registers: a value within the limit is written, any other is dropped and sets
`HERR`. -/
def Obligations.IdleWritesToLengths : Prop :=
  ∀ (s : State) (v : Word) (rest : List HostOp),
    nextTurn s = .host → s.idle → s.cfg.wf = true →
    (s.program = .wr 0x00C#10 v :: rest →
      step s = .next { s.popTurn with program := rest, blk :=
        if v.toNat ≤ s.cfg.nb then { s.blk with blen := v.setWidth 7 } else { s.blk with herr := true } }) ∧
    (s.program = .wr 0x010#10 v :: rest →
      step s = .next { s.popTurn with program := rest, blk :=
        if v.toNat ≤ 15 then { s.blk with scnt := v.setWidth 4 } else { s.blk with herr := true } }) ∧
    (s.program = .wr 0x014#10 v :: rest →
      step s = .next { s.popTurn with program := rest, blk :=
        if v.toNat ≤ s.cfg.nc then { s.blk with clen := v.setWidth 7 } else { s.blk with herr := true } })

/-- R18, R45: of the writes to `STATUS` of an idle block, 2 clears `HERR`, 0 has no effect, any other sets it. -/
def Obligations.IdleWritesToStatus : Prop :=
  ∀ (s : State) (v : Word) (rest : List HostOp),
    nextTurn s = .host → s.idle → s.program = .wr 0x004#10 v :: rest →
    step s = .next { s.popTurn with program := rest, blk :=
      if v = 2#32 then { s.blk with herr := false }
      else if v = 0#32 then s.blk
      else { s.blk with herr := true } }

/-- R45, R47: a write to `ERR`, `ACC` or `CNT`, or to an unmapped address, is dropped and sets `HERR`. -/
def Obligations.IdleWritesThatAreDropped : Prop :=
  ∀ (s : State) (a : Addr) (v : Word) (rest : List HostOp),
    nextTurn s = .host → s.idle → s.program = .wr a v :: rest →
    (regAt s.cfg a = none ∨ a = 0x008#10 ∨ a = 0x018#10 ∨ a = 0x01C#10) →
    step s = .next { s.popTurn with program := rest, blk := { s.blk with herr := true } }

/-- R49: a read after a legal write of a data or length register returns the value written, and every other register
still returns what it returned before. The turns are empty: the host moves at every step (log entry 5). -/
def Obligations.ReadAfterWriteReturnsTheValue : Prop :=
  ∀ (s : State) (r r' : Reg) (v : Word) (rest : List HostOp),
    s.wf → s.idle → s.turns = [] → r.present s.cfg = true → r'.present s.cfg = true →
    r ≠ .cmd → r ≠ .status → writeLegal s.cfg r v = true →
    s.program = .wr (addrOf r) v :: .rd (addrOf r') :: rest →
    ∃ t, runFor 2 s = .next t ∧ t.program = rest ∧ t.blk.herr = s.blk.herr ∧
      t.reads = (if r' = r then v else readReg s.blk r') :: s.reads

/-- R127 (and R126): `HERR`, once set, is cleared by the legal write of 2 to `STATUS` of an idle block and by reset,
and by nothing else. -/
def Obligations.HerrIsSticky : Prop :=
  ∀ s t : State, s.blk.herr = true → step s = .next t →
    (t.blk.herr = false ↔
      (nextTurn s = .assertReset ∨
        (nextTurn s = .host ∧ s.idle ∧ ∃ rest, s.program = .wr 0x004#10 2#32 :: rest)))

/-- R27, R62, R141: `BUSY` rises only at the issue of a legal command, and falls only at the engine's commit or at a
reset. -/
def Obligations.BusyChangesOnlyAtIssueCommitAndReset : Prop :=
  ∀ s t : State, step s = .next t →
    (s.blk.busy = false → t.blk.busy = true →
      nextTurn s = .host ∧ s.rstN = true ∧
        ∃ w i rest, s.program = .wr 0x000#10 w :: rest ∧ decode w = .ok i ∧
          t.blk = { s.blk with opl := latchOf w, busy := true }) ∧
    (s.blk.busy = true → t.blk.busy = false → nextTurn s = .engine ∨ nextTurn s = .assertReset)

/-- R19: `ERR` is written only at a commit, by the write of an illegal command word, and by reset. -/
def Obligations.ErrIsWrittenOnlyByCommands : Prop :=
  ∀ s t : State, step s = .next t → t.blk.err ≠ s.blk.err →
    (nextTurn s = .engine ∧ s.blk.busy = true) ∨ nextTurn s = .assertReset ∨
      (nextTurn s = .host ∧ s.idle ∧ t.blk.err = 6#4 ∧
        ∃ w rest, s.program = .wr 0x000#10 w :: rest ∧ ∀ i, decode w ≠ .ok i)

/-- R148, R20, R21: only reset, or a commit of `MNENC` or `MNDEC`, changes `ACC` or `CNT`. -/
def Obligations.AccAndCntAreWrittenOnlyByMnemonics : Prop :=
  ∀ s t : State, step s = .next t → (t.blk.acc ≠ s.blk.acc ∨ t.blk.cnt ≠ s.blk.cnt) →
    nextTurn s = .assertReset ∨
      (nextTurn s = .engine ∧ s.blk.busy = true ∧
        (latchedInstr s.blk.opl = some .mnenc ∨ latchedInstr s.blk.opl = some .mndec))

/-- R142, R152: no step changes a constant of the build. -/
def Obligations.BuildConstantsNeverChange : Prop :=
  ∀ s t : State, step s = .next t → t.cfg = s.cfg

/-- R67: `WAIT` is a read of `STATUS`, over when the value read has bit 0 clear, and repeated otherwise. -/
def Obligations.WaitReadsStatusUntilIdle : Prop :=
  ∀ (s : State) (rest : List HostOp),
    nextTurn s = .host → s.rstN = true → s.program = .wait :: rest →
    (s.blk.busy = false → step s = .next { s.popTurn with
      program := rest, reads := (if s.blk.herr then 2#32 else 0#32) :: s.reads }) ∧
    (s.blk.busy = true → step s = .next { s.popTurn with
      reads := (if s.blk.herr then 3#32 else 1#32) :: s.reads })

/-- R67: the pseudo-instructions `LDB`, `LDS` and `LDC`, as they run on an idle block, load their buffer and its
length register, and change nothing else. The turns are empty: the host moves at every step (log entry 5). -/
def Obligations.LoadLinesLoadTheirBuffers : Prop :=
  ∀ (s : State) (rest : List HostOp), s.wf → s.idle → s.turns = [] →
    (∀ bs : List Byte, bs.length ≤ s.cfg.nb → s.program = expand (.ldb bs) ++ rest →
      runFor (bs.length + 1) s = .next { s with program := rest, blk :=
        { s.blk with buf := bs ++ s.blk.buf.drop bs.length, blen := BitVec.ofNat 7 bs.length } }) ∧
    (∀ ss : List Symbol, ss.length ≤ 12 → s.program = expand (.lds ss) ++ rest →
      ∃ sym : Vector Symbol 12, sym.toList = ss ++ s.blk.sym.toList.drop ss.length ∧
        runFor (ss.length + 1) s = .next { s with program := rest, blk :=
          { s.blk with sym := sym, scnt := BitVec.ofNat 4 ss.length } }) ∧
    (∀ cs : List Char, cs.length ≤ s.cfg.nc → s.program = expand (.ldc cs) ++ rest →
      runFor (cs.length + 1) s = .next { s with program := rest, blk :=
        { s.blk with chr := cs.map charCode ++ s.blk.chr.drop cs.length, clen := BitVec.ofNat 7 cs.length } })

/-! ### Reset -/

/-- R28: after reset every piece of the block's state is zero, and its buffers have their capacities. -/
def Obligations.ResetZeroesTheBlock : Prop :=
  (State.reset.blk = Block.reset State.reset.cfg) ∧
  ∀ p : Params,
    (Block.reset p).buf.length = p.nb ∧ (∀ x ∈ (Block.reset p).buf, x = 0#8) ∧
    (∀ x ∈ (Block.reset p).sym.toList, x = 0#11) ∧
    (Block.reset p).chr.length = p.nc ∧ (∀ x ∈ (Block.reset p).chr, x = 0#8) ∧
    (Block.reset p).blen = 0#7 ∧ (Block.reset p).scnt = 0#4 ∧ (Block.reset p).clen = 0#7 ∧
    (Block.reset p).busy = false ∧ (Block.reset p).herr = false ∧ (Block.reset p).err = 0#4 ∧
    (Block.reset p).acc = 0#18 ∧ (Block.reset p).cnt = 0#5 ∧ (Block.reset p).opl = 0#3

/-- R140 with R28: the assertion of reset, whatever the block is doing, leaves it idle in its reset state; while reset
is held a host access has no effect on it and a read returns some value; and no move of the engine follows. (The two
turns of the reset line and the counter `draws` are the model's, log entries 3 and 8.) -/
def Obligations.ResetAbandonsAndHolds : Prop :=
  ∀ s : State,
    (nextTurn s = .assertReset → step s = .next { s.popTurn with blk := Block.reset s.cfg, rstN := false }) ∧
    (nextTurn s = .releaseReset → step s = .next { s.popTurn with rstN := true }) ∧
    (nextTurn s = .host → s.rstN = false →
      (∀ a rest, s.program = .rd a :: rest → ∃ v n, step s = .next { s.popTurn with
        program := rest, reads := v :: s.reads, draws := n }) ∧
      (∀ a v rest, s.program = .wr a v :: rest → step s = .next { s.popTurn with program := rest })) ∧
    (nextTurn s = .engine → s.blk = Block.reset s.cfg → step s = .next s.popTurn)

/-! ### The mnemonic operations -/

/-- R81, with the symbols and the residue in the closed form of R80: `MNENC` of 17 bytes writes the twelve symbols,
`SCNT`, the residue in `ACC` and `CNT`, clears `ERR` and `BUSY`, and changes nothing else; with `BLEN` other than 17 it
is LengthError, which writes `ERR` and `BUSY` only. -/
def Obligations.MnencPacksTheSeed : Prop :=
  ∀ s : State,
    (s.wf → s.blk.blen = 17#7 →
      exec .mnenc s = .next { s with blk := { s.blk with
        sym := symbolsOfSeed (be (s.blk.buf.take 17))
        scnt := 12#4
        acc := BitVec.ofNat 18 (be (s.blk.buf.take 17) % 16)
        cnt := 4#5
        err := 0#4
        busy := false } }) ∧
    (s.blk.blen ≠ 17#7 → exec .mnenc s = .next { s with blk := { s.blk with err := 1#4, busy := false } })

/-- R82, with the bytes in the closed form of R80: `MNDEC` of 12 symbols writes the 17 bytes of their seed value,
`BLEN`, the residue in `ACC` and `CNT`, clears `ERR` and `BUSY`, and changes nothing else; with `SCNT` other than 12 it
is LengthError, which writes `ERR` and `BUSY` only. -/
def Obligations.MndecUnpacksTheSymbols : Prop :=
  ∀ s : State,
    (s.wf → s.blk.scnt = 12#4 →
      exec .mndec s = .next { s with blk := { s.blk with
        buf := bytesOfSeed (seedOfSymbols s.blk.sym) ++ s.blk.buf.drop 17
        blen := 17#7
        acc := BitVec.ofNat 18 (s.blk.sym[11].toNat % 16)
        cnt := 4#5
        err := 0#4
        busy := false } }) ∧
    (s.blk.scnt ≠ 12#4 → exec .mndec s = .next { s with blk := { s.blk with err := 1#4, busy := false } })

/-- R85: PackingError cannot occur: after twelve symbols the leftover is 4 bits, so `MNDEC` never writes code 3. -/
def Obligations.PackingErrorCannotOccur : Prop :=
  ∀ s t : State, (unpack s.blk.sym.toList).cnt = 4 ∧ (exec .mndec s = .next t → t.blk.err ≠ 3#4)

/-- R83: the bit counts of both loops do not depend on the data, and the accumulator stays below `2^cnt`. -/
def Obligations.BitCountsDoNotDependOnData : Prop :=
  (∀ bs : List Byte, (pack bs).cnt = 8 * bs.length % 11 ∧ (pack bs).out.length = 8 * bs.length / 11 ∧
    (pack bs).acc < 2 ^ (pack bs).cnt) ∧
  (∀ ss : List Symbol, (unpack ss).cnt = 11 * ss.length % 8 ∧ (unpack ss).out.length = 11 * ss.length / 8 ∧
    (unpack ss).acc < 2 ^ (unpack ss).cnt)

/-- R84, laws 1 and 3: `MNDEC` after `MNENC` gives the seed back with the low nibble of its last byte cleared, so it
gives back a seed whose nibble is clear. -/
def Obligations.SeedRoundTrip : Prop :=
  ∀ s : State, s.wf → s.blk.blen = 17#7 →
    ∃ t u, exec .mnenc s = .next t ∧ exec .mndec t = .next u ∧ u.blk.err = 0#4 ∧ u.blk.blen = 17#7 ∧
      u.blk.buf = s.blk.buf.set 16 (s.blk.buf.getD 16 0#8 &&& 0xF0#8) ∧
      (s.blk.buf.getD 16 0#8 &&& 0x0F#8 = 0#8 → u.blk.buf = s.blk.buf)

/-- R84, law 2: `MNENC` after `MNDEC` gives the symbols back, with `ACC = 0`. -/
def Obligations.SymbolRoundTrip : Prop :=
  ∀ s : State, s.wf → s.blk.scnt = 12#4 →
    ∃ t u, exec .mndec s = .next t ∧ exec .mnenc t = .next u ∧ u.blk.err = 0#4 ∧ u.blk.scnt = 12#4 ∧
      u.blk.sym = s.blk.sym ∧ u.blk.acc = 0#18

/-! ### The base-58 operations -/

/-- R101, with Encode of R100: where the text fits, `B58ENC` writes it to the front of `CHR` and its length to `CLEN`,
clears `ERR` and `BUSY`, and changes nothing else; a longer text is CapacityError, which writes `ERR` and `BUSY`
only. -/
def Obligations.B58encWritesTheText : Prop :=
  ∀ (s : State) (text : List Byte), text = encodeBytes s.cfg (s.blk.buf.take s.blk.blen.toNat) →
    (s.wf → text.length ≤ s.cfg.nc →
      exec .b58enc s = .next { s with blk := { s.blk with
        chr := text ++ s.blk.chr.drop text.length
        clen := BitVec.ofNat 7 text.length
        err := 0#4
        busy := false } }) ∧
    (s.cfg.nc < text.length → exec .b58enc s = .next { s with blk := { s.blk with err := 5#4, busy := false } })

/-- R102, with Decode of R100: where every valid character is in `ALPHABET` and the bytes fit, `B58DEC` writes them to
the front of `BUF` and their number to `BLEN`, clears `ERR` and `BUSY`, and changes nothing else. A valid character
outside `ALPHABET` is DecodeError, whatever its place and the length of the text; else bytes that do not fit are
CapacityError; both write `ERR` and `BUSY` only. -/
def Obligations.B58decWritesTheBytes : Prop :=
  ∀ (s : State) (text bytes : List Byte), text = s.blk.chr.take s.blk.clen.toNat → bytes = decodeText s.cfg text →
    (s.wf → IsText s.cfg text → bytes.length ≤ s.cfg.nb →
      exec .b58dec s = .next { s with blk := { s.blk with
        buf := bytes ++ s.blk.buf.drop bytes.length
        blen := BitVec.ofNat 7 bytes.length
        err := 0#4
        busy := false } }) ∧
    (¬ IsText s.cfg text → exec .b58dec s = .next { s with blk := { s.blk with err := 4#4, busy := false } }) ∧
    (IsText s.cfg text → s.cfg.nb < bytes.length →
      exec .b58dec s = .next { s with blk := { s.blk with err := 5#4, busy := false } })

/-- R103, law 1: decoding the text of any bytes gives the bytes back. -/
def Obligations.Base58DecodeOfEncode : Prop :=
  ∀ (p : Params) (b : List Byte), p.wf = true → base58Bytes p (base58Text p b) = some b

/-- R103, law 2: every string over the alphabet is the text of the bytes it decodes to. -/
def Obligations.Base58EncodeOfDecode : Prop :=
  ∀ (p : Params) (t : List Byte), p.wf = true → IsText p t →
    ∃ b, base58Bytes p t = some b ∧ base58Text p b = t

/-- R103, law 3: leading zero bytes become as many leading zero characters. -/
def Obligations.LeadingZerosArePreserved : Prop :=
  ∀ (p : Params) (b : List Byte), p.wf = true → lz (base58Text p b) (digitChar p 0) = lz b 0#8

/-- R103, law 4: in the block, `B58DEC` after a successful `B58ENC` restores `BUF` and `BLEN`, and `B58ENC` after a
successful `B58DEC` restores `CHR` and `CLEN`. -/
def Obligations.Base58RoundTripInTheBlock : Prop :=
  ∀ s t : State, s.wf → t.blk.err = 0#4 →
    (exec .b58enc s = .next t →
      ∃ u, exec .b58dec t = .next u ∧ u.blk.err = 0#4 ∧ u.blk.buf = s.blk.buf ∧ u.blk.blen = s.blk.blen) ∧
    (exec .b58dec s = .next t →
      ∃ u, exec .b58enc t = .next u ∧ u.blk.err = 0#4 ∧ u.blk.chr = s.blk.chr ∧ u.blk.clen = s.blk.clen)

/-- R104: the length of the result of each codec. -/
def Obligations.Base58Lengths : Prop :=
  ∀ p : Params,
    (∀ b, (encodeBytes p b).length = lz b 0#8 + (if be b = 0 then 0 else Nat.log 58 (be b) + 1)) ∧
    (∀ t, (decodeText p t).length =
      lz t (digitChar p 0) + (if value58 p t = 0 then 0 else Nat.log 256 (value58 p t) + 1))

/-- R106: the leading zeros do not count: the value of a text is that of the digits after its leading zero digits, and
the value of bytes is that of the bytes after the leading zero bytes. -/
def Obligations.LeadingZerosDoNotCount : Prop :=
  (∀ (p : Params) (t : List Byte) (ds : List Nat), digitValues p t = some ds →
    foldDigits ds = foldDigits (ds.drop (lz t (digitChar p 0)))) ∧
  (∀ b : List Byte, be b = be (b.drop (lz b 0#8)))

/-- R104: with a byte buffer of at most 24 bytes and a character buffer of at least 33 characters, the defaults among
them, `B58ENC` never raises CapacityError. -/
def Obligations.DefaultB58encAlwaysFits : Prop :=
  ∀ s : State, s.wf → s.cfg.nb ≤ 24 → 33 ≤ s.cfg.nc →
    ∃ t, exec .b58enc s = .next t ∧ t.blk.err = 0#4

/-! ### All operations -/

/-- R124: an operation that ends with an error changes `ERR` and `BUSY` and nothing else. -/
def Obligations.FailedOperationChangesNothingElse : Prop :=
  ∀ (i : Instr) (s t : State), exec i s = .next t → t.blk.err ≠ 0#4 →
    t = { s with blk := { s.blk with err := t.blk.err, busy := false } }

/-- R122: which operation ends with which code, and exactly when. -/
def Obligations.ErrorCodesOfEachOperation : Prop :=
  ∀ s t : State,
    (exec .mnenc s = .next t →
      (t.blk.err = 0#4 ∧ s.blk.blen = 17#7) ∨ (t.blk.err = 1#4 ∧ s.blk.blen ≠ 17#7)) ∧
    (exec .mndec s = .next t →
      (t.blk.err = 0#4 ∧ s.blk.scnt = 12#4) ∨ (t.blk.err = 1#4 ∧ s.blk.scnt ≠ 12#4)) ∧
    (exec .b58enc s = .next t →
      (t.blk.err = 0#4 ∧ (encodeBytes s.cfg (s.blk.buf.take s.blk.blen.toNat)).length ≤ s.cfg.nc) ∨
      (t.blk.err = 5#4 ∧ s.cfg.nc < (encodeBytes s.cfg (s.blk.buf.take s.blk.blen.toNat)).length)) ∧
    (exec .b58dec s = .next t →
      (t.blk.err = 0#4 ∧ IsText s.cfg (s.blk.chr.take s.blk.clen.toNat) ∧
        (decodeText s.cfg (s.blk.chr.take s.blk.clen.toNat)).length ≤ s.cfg.nb) ∨
      (t.blk.err = 4#4 ∧ ¬ IsText s.cfg (s.blk.chr.take s.blk.clen.toNat)) ∨
      (t.blk.err = 5#4 ∧ IsText s.cfg (s.blk.chr.take s.blk.clen.toNat) ∧
        s.cfg.nb < (decodeText s.cfg (s.blk.chr.take s.blk.clen.toNat)).length))

/-- R27: what no commit writes: its input buffer and length, the buffers of the other units, `HERR`, `OPL`, and
everything outside the block; and it always clears `BUSY`. -/
def Obligations.CommitWriteMatrix : Prop :=
  ∀ (i : Instr) (s t : State), exec i s = .next t →
    t = { s with blk := t.blk } ∧ t.blk.busy = false ∧ t.blk.herr = s.blk.herr ∧ t.blk.opl = s.blk.opl ∧
    ((i = .mnenc ∨ i = .b58enc) → t.blk.buf = s.blk.buf ∧ t.blk.blen = s.blk.blen) ∧
    (i ≠ .mnenc → t.blk.sym = s.blk.sym ∧ t.blk.scnt = s.blk.scnt) ∧
    (i ≠ .b58enc → t.blk.chr = s.blk.chr ∧ t.blk.clen = s.blk.clen) ∧
    ((i = .b58enc ∨ i = .b58dec) → t.blk.acc = s.blk.acc ∧ t.blk.cnt = s.blk.cnt)

/-- R62: the result of an operation depends on the buffers, the lengths and the parameters only: two states that agree
on them agree on all of it afterwards, and on `ERR`, whatever `ERR`, `HERR`, `ACC`, `CNT` and `OPL` were. -/
def Obligations.ResultsIgnoreFlagsAndHistory : Prop :=
  ∀ (i : Instr) (s s' t t' : State), s'.cfg = s.cfg →
    s'.blk.buf = s.blk.buf → s'.blk.sym = s.blk.sym → s'.blk.chr = s.blk.chr →
    s'.blk.blen = s.blk.blen → s'.blk.scnt = s.blk.scnt → s'.blk.clen = s.blk.clen →
    exec i s = .next t → exec i s' = .next t' →
    t'.blk.buf = t.blk.buf ∧ t'.blk.sym = t.blk.sym ∧ t'.blk.chr = t.blk.chr ∧
    t'.blk.blen = t.blk.blen ∧ t'.blk.scnt = t.blk.scnt ∧ t'.blk.clen = t.blk.clen ∧
    t'.blk.err = t.blk.err ∧
    ((i = .mnenc ∨ i = .mndec) → t.blk.err = 0#4 → t'.blk.acc = t.blk.acc ∧ t'.blk.cnt = t.blk.cnt)

/-- R22: the value of `OPL` while `BUSY = 0` is never read: a step from a state that differs in it alone differs in it
alone, or not at all. The two steps are compared in every field, `reads` among them: where the read's value is open, it
is the same in both because the model's free value depends on the counter `draws` alone (the model's choice, log
entry 3). -/
def Obligations.OplIsNotReadWhileIdle : Prop :=
  ∀ (s t : State) (o : BitVec 3), s.blk.busy = false → step s = .next t →
    step { s with blk := { s.blk with opl := o } } = .next t ∨
    step { s with blk := { s.blk with opl := o } } = .next { t with blk := { t.blk with opl := o } }

/-! ### Whole runs -/

/-- R31 with R14, R16, R62 and R140: the invariant of every run is kept by every step. -/
def Obligations.EveryStepKeepsTheInvariant : Prop :=
  ∀ s t : State, RunInv s → step s = .next t → RunInv t

/-- The invariant holds after reset. -/
def Obligations.ResetMeetsTheInvariant : Prop := RunInv State.reset

/-- R151: no state is stuck: from a state that meets the invariant a step always answers a next state. -/
def Obligations.NoStateIsStuck : Prop :=
  ∀ s : State, RunInv s → ∃ t, step s = .next t

/-- R51, R48: whatever the host tries between issue and commit, the commit has the result it would have had at
issue; only `HERR` can differ. -/
def Obligations.OperandsAreThoseAtIssue : Prop :=
  ∀ (s u : State) (i : Instr) (n : Nat) (ts : List Turn), s.rstN = true → s.blk.busy = true →
    latchedInstr s.blk.opl = some i → s.turns = List.replicate n .host ++ .engine :: ts → exec i s = .next u →
    ∃ t, runFor (n + 1) s = .next t ∧ t.turns = ts ∧ t.blk = { u.blk with herr := t.blk.herr }

/-- R147: a started operation commits unless a reset comes first, at the latest when the listed turns are used up
(the model's fairness, log entry 5). -/
def Obligations.StartedOperationsCommit : Prop :=
  ∀ s : State, RunInv s → s.blk.busy = true → s.noReset →
    ∃ k i u t, k ≤ s.turns.length + 1 ∧ latchedInstr s.blk.opl = some i ∧ exec i s = .next u ∧
      runFor k s = .next t ∧ t.blk = { u.blk with herr := t.blk.herr }

/-- R67, R147, R149: a command followed by `WAIT` always gets done, with the result of its operation, whatever the
latency. After the listed turns a started operation commits and else the host moves: the model's choice, log entry 5.
-/
def Obligations.CommandThenWaitGetsTheResult : Prop :=
  ∀ (s : State) (w : Word) (i : Instr) (rest : List HostOp),
    RunInv s → s.idle → s.noReset → decode w = .ok i → s.program = .wr 0x000#10 w :: .wait :: rest →
    ∃ k u t, k ≤ s.turns.length + 3 ∧
      exec i { s with blk := { s.blk with opl := latchOf w, busy := true } } = .next u ∧
      runFor k s = .next t ∧ t.program = rest ∧ t.blk = u.blk

/-- R150: the block at the end of a run whose every access other than a read of `STATUS` is made with `BUSY = 0` is a
function of the block at its start and of those accesses, in their order, whatever the latencies: of two such runs, the
reads of `STATUS` (how often the host polls, and whether as `WAIT` or as single reads) may differ. -/
def Obligations.LatencyDoesNotChangeTheResult : Prop :=
  ∀ (s s' t t' : State) (k k' : Nat), RunInv s → s.idle →
    s'.cfg = s.cfg → s'.blk = s.blk → s'.rstN = s.rstN → dataAccesses s'.program = dataAccesses s.program →
    s.noReset → s'.noReset → keepsBusyRule k s = true → keepsBusyRule k' s' = true →
    runFor k s = .next t → t.over → runFor k' s' = .next t' → t'.over →
    t'.blk = t.blk

/-- R147, R151: a disciplined host program always comes to its end. It rests on what an empty list of turns does, a
started operation commits and else the host moves: the model's choice, log entry 5. -/
def Obligations.DisciplinedProgramsEnd : Prop :=
  ∀ s : State, RunInv s → s.idle → disciplined s.program = true → s.noReset →
    ∃ k t, runFor k s = .next t ∧ t.over

/-- R143, R150: a program whose text keeps R143 (after a legal command only reads of `STATUS` until a `WAIT`, or no
other access) makes every other access with `BUSY = 0`, in every run from an idle block, whatever the latencies and
resets. -/
def Obligations.DisciplinedProgramsKeepTheBusyRule : Prop :=
  ∀ (s : State) (k : Nat), s.idle → disciplined s.program = true → keepsBusyRule k s = true

/-- R150: a host program that breaks R143 can have more than one final state: two runs of one such program from one
block, with no reset, that end with different blocks. In the one every access but the reads of `STATUS` is made with
`BUSY = 0`; in the other some access is made while `BUSY = 1`. -/
def Obligations.BrokenBusyRuleCanChangeTheResult : Prop :=
  ∃ (s s' t t' : State) (k k' : Nat), RunInv s ∧ s.idle ∧
    s'.cfg = s.cfg ∧ s'.blk = s.blk ∧ s'.rstN = s.rstN ∧ s'.program = s.program ∧ s.noReset ∧ s'.noReset ∧
    disciplined s.program = false ∧ keepsBusyRule k s = true ∧ keepsBusyRule k' s' = false ∧
    runFor k s = .next t ∧ t.over ∧ runFor k' s' = .next t' ∧ t'.over ∧ t'.blk ≠ t.blk
end

