-- ==== Sys2Proof/Laws/Operands.lean ====
section
/-! SUPPORT. What the conventions on sequences and integers do, once (R6), and the shape of what they build. -/

namespace Sys2Proof.Machine

/-- The fixed constants of R5 fit together: the seed is twelve symbols and the padding, and every value of a symbol is
an index of the dictionary. -/
theorem constants_agree : 8 * seedLen = nsym * symWidth + padBits ∧ dictSize = 2 ^ symWidth := by decide

/-- Writing into a buffer keeps its capacity. -/
@[simp] theorem overwrite_length {α : Type} (new old : List α) : (overwrite new old).length = old.length := by
  induction new generalizing old with
  | nil => rfl
  | cons x xs ih => cases old with
    | nil => rfl
    | cons y ys => simp [overwrite, ih]

/-- What fits is written, and the rest of the buffer stays. -/
theorem overwrite_eq {α : Type} {new old : List α} (h : new.length ≤ old.length) :
    overwrite new old = new ++ old.drop new.length := by
  induction new generalizing old with
  | nil => rfl
  | cons x xs ih => cases old with
    | nil => simp at h
    | cons y ys => simp [overwrite, ih (by simpa using h)]

/-- With enough fuel, the digits of a number are the library's. -/
theorem digitsFrom_eq {r : Nat} (hr : 2 ≤ r) : ∀ {fuel n : Nat}, n ≤ fuel → digitsFrom r fuel n = Nat.digits r n
  | 0, n, h => by simp [digitsFrom, Nat.le_zero.mp h]
  | fuel + 1, n, h => by
    by_cases hn : n = 0
    · simp [digitsFrom, hn]
    · have hlt : n / r < n := Nat.div_lt_self (Nat.pos_of_ne_zero hn) hr
      rw [digitsFrom, if_neg hn, digitsFrom_eq hr (by omega),
        Nat.digits_def' hr (Nat.pos_of_ne_zero hn)]

/-- `minbytes` is the library's base-256 digits, most significant first. -/
theorem minbytes_eq (n : Nat) : minbytes n = (Nat.digits 256 n).reverse.map (BitVec.ofNat 8) := by
  rw [minbytes, digitsFrom_eq (by decide) le_rfl]

@[simp] theorem be_nil : be [] = 0 := rfl

/-- `be(s ++ [b]) = 256*be(s) + b` (R6). -/
@[simp] theorem be_append_one (s : List Byte) (b : Byte) : be (s ++ [b]) = 256 * be s + b.toNat := by
  simp [be]

/-- The vector that `symbolVector` builds, element by element. -/
@[simp] theorem symbolVector_getElem (out : List Nat) (k : Nat) (h : k < 12) :
    (symbolVector out)[k] = BitVec.ofNat 11 (out.getD k 0) := by
  simp [symbolVector]

/-- `mask` keeps the low bits. -/
theorem and_mask (v n : Nat) : v &&& mask n = v % 2 ^ n := by
  simp [mask, Nat.shiftLeft_eq, Nat.and_two_pow_sub_one_eq_mod]

@[simp] theorem shiftIn_acc (w v : Nat) (t : BitStream) : (t.shiftIn w v).acc = (t.acc <<< w) ||| v := rfl

@[simp] theorem shiftIn_cnt (w v : Nat) (t : BitStream) : (t.shiftIn w v).cnt = t.cnt + w := rfl

@[simp] theorem shiftIn_out (w v : Nat) (t : BitStream) : (t.shiftIn w v).out = t.out := rfl

/-- A shift in of a small value is exact arithmetic (R86). -/
theorem shiftIn_acc_eq {w v : Nat} (h : v < 2 ^ w) (t : BitStream) :
    (t.shiftIn w v).acc = t.acc * 2 ^ w + v := by
  rw [shiftIn_acc, ← Nat.shiftLeft_add_eq_or_of_lt h, Nat.shiftLeft_eq]

@[simp] theorem emit_cnt (w : Nat) (t : BitStream) : (t.emit w).cnt = t.cnt - w := rfl

@[simp] theorem emit_out (w : Nat) (t : BitStream) : (t.emit w).out = t.out ++ [t.acc / 2 ^ (t.cnt - w)] := by
  simp [BitStream.emit, Nat.shiftRight_eq_div_pow]

@[simp] theorem emit_acc (w : Nat) (t : BitStream) : (t.emit w).acc = t.acc % 2 ^ (t.cnt - w) := by
  simp [BitStream.emit, and_mask]

/-- The emitting loop ends below 8 bits. -/
theorem emitBytes_cnt_lt : ∀ {fuel : Nat} {t : BitStream}, t.cnt ≤ fuel → (emitBytes fuel t).cnt < 8
  | 0, t, h => by simp [emitBytes]; omega
  | fuel + 1, t, h => by
    by_cases h8 : 8 ≤ t.cnt
    · rw [emitBytes, if_pos h8]
      exact emitBytes_cnt_lt (by simp; omega)
    · rw [emitBytes, if_neg h8]; omega

end Sys2Proof.Machine
end

