-- ==== Sys2Proof/Laws/Base58.lean ====
section
/-! SUPPORT. The repeated division of R101 gives the text that R100 calls Encode. -/

namespace Sys2Proof.Machine

/-- The text of the pseudocode is the text of the closed form. -/
theorem base58Text_eq (p : Params) (b : List Byte) : base58Text p b = encodeBytes p b := by
  simp only [base58Text, encodeBytes, digits58, radix]
  rw [digitsFrom_eq (by decide) le_rfl]

end Sys2Proof.Machine
end

