-- ==== Sys2Proof/Laws/PerInstr.lean ====
section
/-! SUPPORT. Facts about each command as syntax. -/

namespace Sys2Proof.Laws

/-- The three bits that the issue latches select the command at the commit (R62). -/
def Latch.Statement (i : Instr) : Prop := i.wf = true ∧ latchedInstr (latchOf (encode i)) = some i

theorem Latch.mnenc : Latch.Statement .mnenc := by unfold Latch.Statement; decide

theorem Latch.mndec : Latch.Statement .mndec := by unfold Latch.Statement; decide

theorem Latch.b58enc : Latch.Statement .b58enc := by unfold Latch.Statement; decide

theorem Latch.b58dec : Latch.Statement .b58dec := by unfold Latch.Statement; decide

end Sys2Proof.Laws
end

