-- ==== Sys2Proof/Laws/State.lean ====
section
/-! SUPPORT. One lemma for each field of each update, so that no proof unfolds a record update. -/

namespace Sys2Proof.Machine

@[simp] theorem Block.succeed_buf (b : Block) : (b.succeed).buf = b.buf := rfl
@[simp] theorem Block.succeed_sym (b : Block) : (b.succeed).sym = b.sym := rfl
@[simp] theorem Block.succeed_chr (b : Block) : (b.succeed).chr = b.chr := rfl
@[simp] theorem Block.succeed_blen (b : Block) : (b.succeed).blen = b.blen := rfl
@[simp] theorem Block.succeed_scnt (b : Block) : (b.succeed).scnt = b.scnt := rfl
@[simp] theorem Block.succeed_clen (b : Block) : (b.succeed).clen = b.clen := rfl
@[simp] theorem Block.succeed_busy (b : Block) : (b.succeed).busy = false := rfl
@[simp] theorem Block.succeed_herr (b : Block) : (b.succeed).herr = b.herr := rfl
@[simp] theorem Block.succeed_err (b : Block) : (b.succeed).err = 0#4 := rfl
@[simp] theorem Block.succeed_acc (b : Block) : (b.succeed).acc = b.acc := rfl
@[simp] theorem Block.succeed_cnt (b : Block) : (b.succeed).cnt = b.cnt := rfl
@[simp] theorem Block.succeed_opl (b : Block) : (b.succeed).opl = b.opl := rfl

@[simp] theorem Block.raise_buf (e : OpError) (b : Block) : (b.raise e).buf = b.buf := rfl
@[simp] theorem Block.raise_sym (e : OpError) (b : Block) : (b.raise e).sym = b.sym := rfl
@[simp] theorem Block.raise_chr (e : OpError) (b : Block) : (b.raise e).chr = b.chr := rfl
@[simp] theorem Block.raise_blen (e : OpError) (b : Block) : (b.raise e).blen = b.blen := rfl
@[simp] theorem Block.raise_scnt (e : OpError) (b : Block) : (b.raise e).scnt = b.scnt := rfl
@[simp] theorem Block.raise_clen (e : OpError) (b : Block) : (b.raise e).clen = b.clen := rfl
@[simp] theorem Block.raise_busy (e : OpError) (b : Block) : (b.raise e).busy = false := rfl
@[simp] theorem Block.raise_herr (e : OpError) (b : Block) : (b.raise e).herr = b.herr := rfl
@[simp] theorem Block.raise_err (e : OpError) (b : Block) : (b.raise e).err = e.code := rfl
@[simp] theorem Block.raise_acc (e : OpError) (b : Block) : (b.raise e).acc = b.acc := rfl
@[simp] theorem Block.raise_cnt (e : OpError) (b : Block) : (b.raise e).cnt = b.cnt := rfl
@[simp] theorem Block.raise_opl (e : OpError) (b : Block) : (b.raise e).opl = b.opl := rfl

@[simp] theorem Block.setHerr_buf (b : Block) : (b.setHerr).buf = b.buf := rfl
@[simp] theorem Block.setHerr_sym (b : Block) : (b.setHerr).sym = b.sym := rfl
@[simp] theorem Block.setHerr_chr (b : Block) : (b.setHerr).chr = b.chr := rfl
@[simp] theorem Block.setHerr_blen (b : Block) : (b.setHerr).blen = b.blen := rfl
@[simp] theorem Block.setHerr_scnt (b : Block) : (b.setHerr).scnt = b.scnt := rfl
@[simp] theorem Block.setHerr_clen (b : Block) : (b.setHerr).clen = b.clen := rfl
@[simp] theorem Block.setHerr_busy (b : Block) : (b.setHerr).busy = b.busy := rfl
@[simp] theorem Block.setHerr_herr (b : Block) : (b.setHerr).herr = true := rfl
@[simp] theorem Block.setHerr_err (b : Block) : (b.setHerr).err = b.err := rfl
@[simp] theorem Block.setHerr_acc (b : Block) : (b.setHerr).acc = b.acc := rfl
@[simp] theorem Block.setHerr_cnt (b : Block) : (b.setHerr).cnt = b.cnt := rfl
@[simp] theorem Block.setHerr_opl (b : Block) : (b.setHerr).opl = b.opl := rfl

@[simp] theorem Block.clearHerr_buf (b : Block) : (b.clearHerr).buf = b.buf := rfl
@[simp] theorem Block.clearHerr_sym (b : Block) : (b.clearHerr).sym = b.sym := rfl
@[simp] theorem Block.clearHerr_chr (b : Block) : (b.clearHerr).chr = b.chr := rfl
@[simp] theorem Block.clearHerr_blen (b : Block) : (b.clearHerr).blen = b.blen := rfl
@[simp] theorem Block.clearHerr_scnt (b : Block) : (b.clearHerr).scnt = b.scnt := rfl
@[simp] theorem Block.clearHerr_clen (b : Block) : (b.clearHerr).clen = b.clen := rfl
@[simp] theorem Block.clearHerr_busy (b : Block) : (b.clearHerr).busy = b.busy := rfl
@[simp] theorem Block.clearHerr_herr (b : Block) : (b.clearHerr).herr = false := rfl
@[simp] theorem Block.clearHerr_err (b : Block) : (b.clearHerr).err = b.err := rfl
@[simp] theorem Block.clearHerr_acc (b : Block) : (b.clearHerr).acc = b.acc := rfl
@[simp] theorem Block.clearHerr_cnt (b : Block) : (b.clearHerr).cnt = b.cnt := rfl
@[simp] theorem Block.clearHerr_opl (b : Block) : (b.clearHerr).opl = b.opl := rfl

@[simp] theorem State.popTurn_cfg (s : State) : (s.popTurn).cfg = s.cfg := rfl
@[simp] theorem State.popTurn_blk (s : State) : (s.popTurn).blk = s.blk := rfl
@[simp] theorem State.popTurn_rstN (s : State) : (s.popTurn).rstN = s.rstN := rfl
@[simp] theorem State.popTurn_program (s : State) : (s.popTurn).program = s.program := rfl
@[simp] theorem State.popTurn_turns (s : State) : (s.popTurn).turns = s.turns.tail := rfl
@[simp] theorem State.popTurn_reads (s : State) : (s.popTurn).reads = s.reads := rfl
@[simp] theorem State.popTurn_draws (s : State) : (s.popTurn).draws = s.draws := rfl

@[simp] theorem State.markHerr_cfg (s : State) : (s.markHerr).cfg = s.cfg := rfl
@[simp] theorem State.markHerr_blk (s : State) : (s.markHerr).blk = s.blk.setHerr := rfl
@[simp] theorem State.markHerr_rstN (s : State) : (s.markHerr).rstN = s.rstN := rfl
@[simp] theorem State.markHerr_program (s : State) : (s.markHerr).program = s.program := rfl
@[simp] theorem State.markHerr_turns (s : State) : (s.markHerr).turns = s.turns := rfl
@[simp] theorem State.markHerr_reads (s : State) : (s.markHerr).reads = s.reads := rfl
@[simp] theorem State.markHerr_draws (s : State) : (s.markHerr).draws = s.draws := rfl

@[simp] theorem State.gotRead_cfg (v : Word) (s : State) : (s.gotRead v).cfg = s.cfg := rfl
@[simp] theorem State.gotRead_blk (v : Word) (s : State) : (s.gotRead v).blk = s.blk := rfl
@[simp] theorem State.gotRead_rstN (v : Word) (s : State) : (s.gotRead v).rstN = s.rstN := rfl
@[simp] theorem State.gotRead_program (v : Word) (s : State) : (s.gotRead v).program = s.program := rfl
@[simp] theorem State.gotRead_turns (v : Word) (s : State) : (s.gotRead v).turns = s.turns := rfl
@[simp] theorem State.gotRead_reads (v : Word) (s : State) : (s.gotRead v).reads = v :: s.reads := rfl
@[simp] theorem State.gotRead_draws (v : Word) (s : State) : (s.gotRead v).draws = s.draws := rfl

@[simp] theorem State.gotAnyRead_cfg (s : State) : (s.gotAnyRead).cfg = s.cfg := rfl
@[simp] theorem State.gotAnyRead_blk (s : State) : (s.gotAnyRead).blk = s.blk := rfl
@[simp] theorem State.gotAnyRead_rstN (s : State) : (s.gotAnyRead).rstN = s.rstN := rfl
@[simp] theorem State.gotAnyRead_program (s : State) : (s.gotAnyRead).program = s.program := rfl
@[simp] theorem State.gotAnyRead_turns (s : State) : (s.gotAnyRead).turns = s.turns := rfl
@[simp] theorem State.gotAnyRead_reads (s : State) : (s.gotAnyRead).reads = Config.anyRead s.draws :: s.reads := rfl
@[simp] theorem State.gotAnyRead_draws (s : State) : (s.gotAnyRead).draws = s.draws + 1 := rfl

@[simp] theorem State.assertReset_cfg (s : State) : (s.assertReset).cfg = s.cfg := rfl
@[simp] theorem State.assertReset_blk (s : State) : (s.assertReset).blk = Block.reset s.cfg := rfl
@[simp] theorem State.assertReset_rstN (s : State) : (s.assertReset).rstN = false := rfl
@[simp] theorem State.assertReset_program (s : State) : (s.assertReset).program = s.program := rfl
@[simp] theorem State.assertReset_turns (s : State) : (s.assertReset).turns = s.turns := rfl
@[simp] theorem State.assertReset_reads (s : State) : (s.assertReset).reads = s.reads := rfl
@[simp] theorem State.assertReset_draws (s : State) : (s.assertReset).draws = s.draws := rfl

@[simp] theorem State.releaseReset_cfg (s : State) : (s.releaseReset).cfg = s.cfg := rfl
@[simp] theorem State.releaseReset_blk (s : State) : (s.releaseReset).blk = s.blk := rfl
@[simp] theorem State.releaseReset_rstN (s : State) : (s.releaseReset).rstN = true := rfl
@[simp] theorem State.releaseReset_program (s : State) : (s.releaseReset).program = s.program := rfl
@[simp] theorem State.releaseReset_turns (s : State) : (s.releaseReset).turns = s.turns := rfl
@[simp] theorem State.releaseReset_reads (s : State) : (s.releaseReset).reads = s.reads := rfl
@[simp] theorem State.releaseReset_draws (s : State) : (s.releaseReset).draws = s.draws := rfl

@[simp] theorem State.issued_cfg (w : Word) (s : State) : (s.issued w).cfg = s.cfg := rfl
@[simp] theorem State.issued_blk (w : Word) (s : State) : (s.issued w).blk = { s.blk with opl := latchOf w, busy := true } := rfl
@[simp] theorem State.issued_rstN (w : Word) (s : State) : (s.issued w).rstN = s.rstN := rfl
@[simp] theorem State.issued_program (w : Word) (s : State) : (s.issued w).program = s.program := rfl
@[simp] theorem State.issued_turns (w : Word) (s : State) : (s.issued w).turns = if s.turns = [] then [] else .engine :: s.turns := rfl
@[simp] theorem State.issued_reads (w : Word) (s : State) : (s.issued w).reads = s.reads := rfl
@[simp] theorem State.issued_draws (w : Word) (s : State) : (s.issued w).draws = s.draws := rfl

@[simp] theorem step_next_eq {s t : State} :
    ((.next s : Host.Outcome State Fault Refusal) = .next t) ↔ s = t :=
  ⟨fun h => by injection h, fun h => by rw [h]⟩

end Sys2Proof.Machine
end

