-- ==== Sys2Proof/Laws/Port.lean ====
section
/-! SUPPORT. What each shared operation of the port and of the engine can do, said once. -/

namespace Sys2Proof.Machine

/-- A host read changes the block by the mark of an illegal access at most. -/
theorem hostRead_blk (a : Addr) (s : State) :
    (hostRead a s).blk = s.blk ∨ (hostRead a s).blk = s.blk.setHerr := by
  unfold hostRead
  split
  · simp
  · split
    · split <;> simp
    · split <;> simp

@[simp] theorem hostRead_cfg (a : Addr) (s : State) : (hostRead a s).cfg = s.cfg := by
  unfold hostRead
  split
  · rfl
  · split
    · split <;> rfl
    · split <;> rfl

@[simp] theorem hostRead_rstN (a : Addr) (s : State) : (hostRead a s).rstN = s.rstN := by
  unfold hostRead
  split
  · rfl
  · split
    · split <;> rfl
    · split <;> rfl

@[simp] theorem hostRead_program (a : Addr) (s : State) : (hostRead a s).program = s.program := by
  unfold hostRead
  split
  · rfl
  · split
    · split <;> rfl
    · split <;> rfl

@[simp] theorem hostRead_turns (a : Addr) (s : State) : (hostRead a s).turns = s.turns := by
  unfold hostRead
  split
  · rfl
  · split
    · split <;> rfl
    · split <;> rfl

/-- What a host write can do to the block: nothing, the mark, or one legal register write to an idle block. -/
theorem hostWrite_cases (a : Addr) (v : Word) (s : State) :
    (s.rstN = false ∧ hostWrite a v s = s) ∨
    (s.rstN = true ∧ hostWrite a v s = s.markHerr) ∨
    (s.rstN = true ∧ s.blk.busy = false ∧ ∃ r, regAt s.cfg a = some r ∧ writeLegal s.cfg r v = true ∧
      hostWrite a v s = { s with blk := writeReg r v s.blk }) := by
  unfold hostWrite
  cases hr : s.rstN
  · simp
  · cases hb : s.blk.busy
    · cases ha : regAt s.cfg a with
      | none => simp
      | some r => cases hl : writeLegal s.cfg r v <;> simp_all
    · simp

/-- The commit of a command as a function of the build's constants and the block. -/
def commitOf (p : Params) (b : Block) : Instr → Block
  | .mnenc => mnencCommit b
  | .mndec => mndecCommit b
  | .b58enc => b58encCommit p b
  | .b58dec => b58decCommit p b

/-- A command always completes, and changes the block only. -/
theorem exec_eq (i : Instr) (s : State) : exec i s = .next { s with blk := commitOf s.cfg s.blk i } := by
  cases i <;> rfl

/-- What one step can be, by whose move it is. -/
theorem step_cases {s t : State} (h : step s = .next t) :
    (nextTurn s = .host ∧ t = hostMove s.popTurn) ∨
    (nextTurn s = .engine ∧ s.blk.busy = false ∧ t = s.popTurn) ∨
    (nextTurn s = .engine ∧ s.blk.busy = true ∧ ∃ i, latchedInstr s.blk.opl = some i ∧
      t = { s.popTurn with blk := commitOf s.cfg s.blk i }) ∨
    (nextTurn s = .assertReset ∧ t = s.popTurn.assertReset) ∨
    (nextTurn s = .releaseReset ∧ t = s.popTurn.releaseReset) := by
  unfold step at h
  cases hn : nextTurn s <;> rw [hn] at h
  · exact .inl ⟨rfl, (step_next_eq.mp h).symm⟩
  · cases hb : s.blk.busy
    · exact .inr (.inl ⟨rfl, rfl, by simpa [takeTurn, engineTurn, hb] using h.symm⟩)
    · cases hi : latchedInstr s.blk.opl with
      | none => simp [takeTurn, engineTurn, hb, hi] at h
      | some i =>
        refine .inr (.inr (.inl ⟨rfl, rfl, i, rfl, ?_⟩))
        simpa [takeTurn, engineTurn, hb, hi, exec_eq] using h.symm
  · exact .inr (.inr (.inr (.inl ⟨rfl, (step_next_eq.mp h).symm⟩)))
  · exact .inr (.inr (.inr (.inr ⟨rfl, (step_next_eq.mp h).symm⟩)))

/-- What the host's move can be, by its next access. -/
theorem hostMove_cases (s : State) :
    (s.program = [] ∧ hostMove s = s) ∨
    (∃ a rest, s.program = .rd a :: rest ∧ hostMove s = { hostRead a s with program := rest }) ∨
    (∃ a v rest, s.program = .wr a v :: rest ∧ hostMove s = { hostWrite a v s with program := rest }) ∨
    (∃ rest, s.program = .wait :: rest ∧
      ((pollDone (hostRead statusAddr s) = true ∧ hostMove s = { hostRead statusAddr s with program := rest }) ∨
       (pollDone (hostRead statusAddr s) = false ∧ hostMove s = hostRead statusAddr s))) := by
  unfold hostMove
  split
  · exact .inl ⟨by assumption, rfl⟩
  · rename_i a rest h
    exact .inr (.inl ⟨a, rest, h, rfl⟩)
  · rename_i a v rest h
    exact .inr (.inr (.inl ⟨a, v, rest, h, rfl⟩))
  · rename_i rest h
    refine .inr (.inr (.inr ⟨rest, h, ?_⟩))
    cases hp : pollDone (hostRead statusAddr s) <;> simp

/-- The block after reset fits its build, whatever the parameters. -/
theorem reset_fits (p : Params) : (Block.reset p).fits p := by
  simp [Block.fits, Block.reset]

/-- A legal register write keeps the shape of the block. -/
theorem writeReg_fits {p : Params} {r : Reg} {v : Word} {b : Block} (hp : p.wf = true) (hl : writeLegal p r v = true)
    (h : b.fits p) : (writeReg r v b).fits p := by
  obtain ⟨h1, h2, h3, h4⟩ := h
  have hn : p.nb ≤ 64 ∧ p.nc ≤ 64 := by
    simp [Params.wf, Params.nbOk, Params.ncOk] at hp; omega
  cases r <;> simp [writeReg, Block.fits, *]
  · unfold Block.command; split <;> simp [*]
  · split <;> simp [*]
  · have : v.toNat ≤ p.nb := by simp [writeLegal, valueOk] at hl; exact hl.2
    exact le_trans (Nat.mod_le _ _) this
  · have : v.toNat ≤ p.nc := by simp [writeLegal, valueOk] at hl; exact hl.2
    exact le_trans (Nat.mod_le _ _) this

/-- A commit keeps the shape of the block. -/
theorem commitOf_fits {p : Params} {b : Block} (hp : p.wf = true) (h : b.fits p) (i : Instr) :
    (commitOf p b i).fits p := by
  obtain ⟨h1, h2, h3, h4⟩ := h
  have hn : 17 ≤ p.nb ∧ p.nb ≤ 64 ∧ p.nc ≤ 64 := by
    simp [Params.wf, Params.nbOk, Params.ncOk, seedLen] at hp; omega
  cases i
  · simp only [commitOf, mnencCommit]; split <;> simp [Block.fits, *]
  · simp only [commitOf, mndecCommit]
    split
    · simp [Block.fits, *]
    · split <;> simp [Block.fits, seedLen, *]
  · simp only [commitOf, b58encCommit]
    split
    · simp [Block.fits, *]
    · simp [Block.fits, *]; exact le_trans (Nat.mod_le _ _) (by omega)
  · simp only [commitOf, b58decCommit]
    split
    · simp [Block.fits, *]
    · split
      · simp [Block.fits, *]
      · simp [Block.fits, *]; exact le_trans (Nat.mod_le _ _) (by omega)

end Sys2Proof.Machine
end

