-- ==== Sys2Proof/Tests/Slice0.lean ====
section
/-! SUPPORT. The author's tests: the checks of WellFormed, decoding, vectors of spec 95_test_vectors.md, and for every
statement with hypotheses a state that meets them. -/

namespace Sys2Proof.Tests

open Sys2Proof.Machine

/-! ### States -/

/-- The reset state with a host program; no turns are listed, so the host moves. -/
def idleWith (ops : List HostOp) : State := { State.reset with program := ops }

/-- A state whose block is `b`, the host to move. -/
def withBlock (b : Block) (ops : List HostOp) : State := { State.reset with blk := b, program := ops, turns := [.host] }

def zeroBlock : Block := Block.reset defaultParams

/-- Busy with `MNENC`. -/
def busyBlock : Block := { zeroBlock with busy := true, opl := 1#3 }

/-- A block whose bytes are `bs`. -/
def bytesBlock (bs : List Byte) : Block :=
  { zeroBlock with buf := overwrite bs zeroBlock.buf, blen := BitVec.ofNat 7 bs.length }

/-- A block whose text is the codes of `cs`. -/
def textBlock (cs : List Char) : Block :=
  { zeroBlock with chr := overwrite (cs.map charCode) zeroBlock.chr, clen := BitVec.ofNat 7 cs.length }

/-- A block whose twelve symbols are `ss`. -/
def symbolsBlock (ss : List Nat) : Block := { zeroBlock with sym := symbolVector ss, scnt := 12#4 }

/-- The state around a block. -/
def holding (b : Block) : State := { State.reset with blk := b }

/-- The block a step leaves, where it leaves one. -/
def blockAfter (o : Host.Outcome State Fault Refusal) : Option Block :=
  match o with
  | .next s => some s.blk
  | .fault _ => none
  | .refused _ => none

/-- The seed of V1. -/
def seedV1 : List Byte :=
  [0x44, 0x2f, 0x54, 0xcd, 0x07, 0x2a, 0x96, 0x38, 0xbe, 0x4a, 0x03, 0x44, 0xe1, 0xa6, 0xe5, 0xf0, 0x10]

/-- The symbols of V1. -/
def symbolsV1 : List Nat := [545, 981, 410, 114, 1355, 226, 1993, 515, 551, 105, 1483, 1793]

/-! ### WellFormed refuses -/

theorem test_wf_accepts_defaults : defaultParams.wf = true := by decide

theorem test_wf_refuses_small_buffer : ({ defaultParams with nb := 16 } : Params).wf = false := by decide

theorem test_wf_refuses_large_buffer : ({ defaultParams with nb := 65 } : Params).wf = false := by decide

theorem test_wf_refuses_no_characters : ({ defaultParams with nc := 0 } : Params).wf = false := by decide

theorem test_wf_refuses_many_characters : ({ defaultParams with nc := 65 } : Params).wf = false := by decide

theorem test_wf_refuses_repeated_digit :
    ({ defaultParams with alphabet := defaultAlphabet.set 57 0x31#8 } : Params).wf = false := by decide

theorem test_wf_refuses_missing_slot : (HostLine.wr (.buf 24) (.num 0)).wf defaultParams = false := by decide

theorem test_wf_refuses_missing_character_slot : (HostLine.rd (.chr 33)).wf defaultParams = false := by decide

theorem test_wf_refuses_wide_character : (HostLine.wr .blen (.chr 'λ')).wf defaultParams = false := by decide

theorem test_wf_refuses_long_ldb : (HostLine.ldb (List.replicate 25 0)).wf defaultParams = false := by decide

theorem test_wf_refuses_thirteen_symbols : (HostLine.lds (List.replicate 13 0)).wf defaultParams = false := by decide

theorem test_wf_refuses_long_ldc : (HostLine.ldc (List.replicate 34 '1')).wf defaultParams = false := by decide

/-! ### Decoding: words written out from R60 and R61, and the table CD of spec 95_test_vectors.md -/

theorem test_decode_mnenc : decode 0b000000000000000000000000_00000001#32 = .ok .mnenc := by decide

theorem test_decode_mndec : decode 0b000000000000000000000000_00000010#32 = .ok .mndec := by decide

theorem test_decode_b58enc : decode 0b000000000000000000000000_00000011#32 = .ok .b58enc := by decide

theorem test_decode_b58dec : decode 0b000000000000000000000000_00000100#32 = .ok .b58dec := by decide

theorem test_decode_rejects : [0x0#32, 0x5#32, 0xFF#32, 0x101#32, 0x80000004#32, 0xFFFFFFFF#32].all
    (fun w => (decode w).toOption.isNone) = true := by decide

theorem test_encode : (encode .mnenc, encode .mndec, encode .b58enc, encode .b58dec) = (1#32, 2#32, 3#32, 4#32) := by
  decide

theorem test_table_words : (decodeTableWord 32 1, decodeTableWord 32 4, decodeTableWord 32 5) =
    (some .mnenc, some .b58dec, none) := by decide

/-! ### Vectors of spec 95_test_vectors.md -/

/-- V1, ME. -/
theorem test_mnenc_v1 : (blockAfter (exec .mnenc (holding (bytesBlock seedV1)))).map
    (fun b => (b.sym.toList.map BitVec.toNat, b.scnt, b.acc, b.cnt)) = some (symbolsV1, 12#4, 0#18, 4#5) := by decide

/-- ME3: padding set is no error, and is left in `ACC`. -/
theorem test_mnenc_padding : (blockAfter (exec .mnenc (holding (bytesBlock (List.replicate 17 0xff#8))))).map
    (fun b => (b.sym.toList.map BitVec.toNat, b.acc, b.err)) = some (List.replicate 12 2047, 15#18, 0#4) := by decide

/-- MD7. -/
theorem test_mndec_md7 :
    (blockAfter (exec .mndec (holding (symbolsBlock [1, 2, 3, 4, 5, 6, 7, 8, 9, 10, 11, 12])))).map
    (fun b => ((b.buf.take 17).map BitVec.toNat, b.blen, b.acc)) = some ([0x00, 0x20, 0x08, 0x01, 0x80, 0x40, 0x0a,
      0x01, 0x80, 0x38, 0x08, 0x01, 0x20, 0x28, 0x05, 0x80, 0xc0], 17#7, 12#18) := by decide

/-- MD14: the count is tested, not the leftover. -/
theorem test_mndec_count : (blockAfter (exec .mndec (holding { symbolsBlock symbolsV1 with scnt := 4#4 }))).map
    (fun b => (b.err, b.blen, b.cnt)) = some (1#4, 0#7, 0#5) := by decide

/-- BE11. -/
theorem test_b58enc_leading_zero : (blockAfter (exec .b58enc (holding (bytesBlock [0x00, 0x01, 0x00])))).map
    (fun b => (b.chr.take 3, b.clen)) = some (['1', '5', 'R'].map charCode, 3#7) := by decide

/-- BE31 with `B58_NB = 25`, `B58_NC = 33`: 34 characters do not fit. -/
theorem test_b58enc_capacity : (b58encCommit { defaultParams with nb := 25 } { zeroBlock with
    buf := [0x00, 0xeb, 0x15, 0x23, 0x1d, 0xfc, 0xeb, 0x60, 0x92, 0x58, 0x86, 0xb6, 0x7d, 0x06, 0x52, 0x99, 0x92, 0x59,
      0x15, 0xae, 0xb1, 0x72, 0xc0, 0x66, 0x47], blen := 25#7 }).err = 5#4 := by decide

/-- V3, BD12. -/
theorem test_b58dec_container :
    (blockAfter (exec .b58dec (holding (textBlock "9J877LVjhr3Xxd2nGzRVRVNUZpSKJF4TH".toList)))).map
    (fun b => (b.buf, b.blen)) =
      some ([0x5a, 0xfe, 0x02] ++ seedV1 ++ [0x80, 0x92, 0x7a, 0xa0], 24#7) := by decide

/-- BD26: both errors apply and DecodeError wins. -/
theorem test_b58dec_priority : (blockAfter (exec .b58dec (holding (textBlock ('0' :: List.replicate 32 'z'))))).map
    (fun b => (b.err, b.blen)) = some (4#4, 0#7) := by decide

/-- RA2, RA7, RA9: dropped, not truncated. -/
theorem test_writes_dropped : [(0x100#10, 0x100#32), (0x160#10, 0x0#32), (0x00C#10, 25#32), (0x004#10, 3#32)].all
    (fun x => blockAfter (step (idleWith [.wr x.1 x.2])) == some zeroBlock.setHerr) = true := by decide

/-- RA22, RA23: busy, a command and a clearing write are dropped. -/
theorem test_busy_writes : [(0x000#10, 0x1#32), (0x004#10, 0x2#32), (0x100#10, 0x1#32)].all
    (fun x => blockAfter (step (withBlock busyBlock [.wr x.1 x.2])) == some busyBlock.setHerr) = true := by decide

/-- CD8. -/
theorem test_illegal_command :
    blockAfter (step (idleWith [.wr 0x000 0x101])) = some { zeroBlock with err := 6#4 } := by decide

/-- `LDC "110"` of P3, as R67 expands it. -/
theorem test_expand_ldc : expand (.ldc ['1', '1', '0']) =
    [.wr 0x300 0x31, .wr 0x304 0x31, .wr 0x308 0x30, .wr 0x014 0x3] := by decide

/-- `LDS` of P2 begins so, and its count goes to `SCNT`. -/
theorem test_expand_lds : expand (.lds [545, 981]) = [.wr 0x200 0x221, .wr 0x204 0x3d5, .wr 0x010 0x2] := by decide

/-- A placed command is run by the next step from reset: `MNENC` with `BLEN = 0` is LengthError. -/
theorem test_placed_from_reset : (blockAfter (step (State.reset.withFetchWord 32 1))).map
    (fun b => (b.err, b.busy, b.opl)) = some (1#4, false, 1#3) := by decide

/-- A placed word that is no command is IllegalCommand. -/
theorem test_placed_illegal : (blockAfter (step (State.reset.withFetchWord 32 5))).map Block.err = some 6#4 := by decide

/-! ### A state for the hypotheses of each statement -/

theorem witness_DecodeAndEncodeAgree :
    Instr.mnenc.wf = true ∧ decode 1#32 = .ok .mnenc := by decide

theorem witness_LatchSelectsTheIssuedOperation :
    decode 4#32 = .ok .b58dec ∧ latchedInstr 4#3 = some .b58dec := by decide

/-- The last slot of each array. -/
theorem witness_AddressMapIsExact :
    defaultParams.wf = true ∧ regAt defaultParams 0x15C#10 = some (.buf 23) ∧
      regAt defaultParams 0x22C#10 = some (.sym 11) ∧ regAt defaultParams 0x380#10 = some (.chr 32) := by decide

theorem witness_MisalignedIsUnmapped_write :
    (0x3FF#10).toNat % 4 ≠ 0 ∧ nextTurn (idleWith [.wr 0x3FF 1]) = .host ∧ (idleWith [.wr 0x3FF 1]).idle ∧
      (idleWith [.wr 0x3FF 1]).program = .wr 0x3FF#10 1#32 :: [] := by decide

/-- RA14. -/
theorem witness_MisalignedIsUnmapped_read :
    (0x102#10).toNat % 4 ≠ 0 ∧ nextTurn (idleWith [.rd 0x102]) = .host ∧ (idleWith [.rd 0x102]).idle ∧
      (idleWith [.rd 0x102]).program = .rd 0x102#10 :: [] := by decide

theorem witness_DigitValueIsTheUniqueDigit :
    defaultParams.wf = true ∧ digitValue defaultParams 0x7A#8 = some 57 ∧ digitValue defaultParams 0x30#8 = none := by decide

theorem witness_StepRunsTheLatchedInstruction_busy :
    nextTurn (holding busyBlock) = .engine ∧ (holding busyBlock).blk.busy = true ∧
      latchedInstr (holding busyBlock).blk.opl = some .mnenc := by decide

theorem witness_StepRunsTheLatchedInstruction_idle :
    nextTurn { State.reset with turns := [.engine] } = .engine ∧
      ({ State.reset with turns := [.engine] } : State).blk.busy = false := by decide

theorem witness_CommandWriteIssues :
    nextTurn (idleWith [.wr 0 4, .wait]) = .host ∧ (idleWith [.wr 0 4, .wait]).idle ∧
      (idleWith [.wr 0 4, .wait]).program = .wr 0x000#10 4#32 :: [.wait] ∧ decode 4#32 = .ok .b58dec := by decide

theorem witness_IllegalCommandWritesErrOnly_idle :
    nextTurn (idleWith [.wr 0 5]) = .host ∧ (idleWith [.wr 0 5]).rstN = true ∧
      (idleWith [.wr 0 5]).program = .wr 0x000#10 5#32 :: [] ∧ (idleWith [.wr 0 5]).blk.busy = false ∧
      (5#32 ≠ 1#32 ∧ 5#32 ≠ 2#32 ∧ 5#32 ≠ 3#32 ∧ 5#32 ≠ 4#32) := by decide

theorem witness_IllegalCommandWritesErrOnly_busy :
    nextTurn (withBlock busyBlock [.wr 0 1]) = .host ∧ (withBlock busyBlock [.wr 0 1]).rstN = true ∧
      (withBlock busyBlock [.wr 0 1]).program = .wr 0x000#10 1#32 :: [] ∧
      (withBlock busyBlock [.wr 0 1]).blk.busy = true := by decide

theorem witness_PlacedCommandRunsNext :
    decode 3#32 = .ok .b58enc := by decide

/-- RA15, and the first slot above the capacity. -/
theorem witness_IdleReadReturnsTheRegister_unmapped :
    nextTurn (idleWith [.rd 0x020]) = .host ∧ (idleWith [.rd 0x020]).idle ∧
      (idleWith [.rd 0x020]).program = .rd 0x020#10 :: [] ∧ regAt (idleWith []).cfg 0x020#10 = none ∧
      regAt (idleWith []).cfg 0x160#10 = none := by decide

theorem witness_IdleReadReturnsTheRegister_mapped :
    nextTurn (idleWith [.rd 0x15C]) = .host ∧ (idleWith [.rd 0x15C]).idle ∧
      (idleWith [.rd 0x15C]).program = .rd 0x15C#10 :: [] ∧ regAt (idleWith []).cfg 0x15C#10 = some (.buf 23) ∧
      23 < (idleWith []).blk.buf.length ∧ 32 < (idleWith []).blk.chr.length := by decide

/-- RA19. -/
theorem witness_BusyAccessesTouchHerrOnly_status :
    nextTurn (withBlock busyBlock [.rd 4]) = .host ∧ (withBlock busyBlock [.rd 4]).rstN = true ∧
      (withBlock busyBlock [.rd 4]).blk.busy = true ∧ (withBlock busyBlock [.rd 4]).program = .rd 0x004#10 :: [] := by decide

/-- RA20. -/
theorem witness_BusyAccessesTouchHerrOnly_read :
    nextTurn (withBlock busyBlock [.rd 8]) = .host ∧ (withBlock busyBlock [.rd 8]).rstN = true ∧
      (withBlock busyBlock [.rd 8]).blk.busy = true ∧ (0x008#10 : Addr) ≠ 0x004#10 ∧
      (withBlock busyBlock [.rd 8]).program = .rd 0x008#10 :: [] := by decide

/-- RA23. -/
theorem witness_BusyAccessesTouchHerrOnly_write :
    nextTurn (withBlock busyBlock [.wr 4 2]) = .host ∧ (withBlock busyBlock [.wr 4 2]).rstN = true ∧
      (withBlock busyBlock [.wr 4 2]).blk.busy = true ∧
      (withBlock busyBlock [.wr 4 2]).program = .wr 0x004#10 2#32 :: [] := by decide

theorem witness_OpenReadsDrawFreshValues_reset :
    nextTurn { idleWith [.rd 4] with rstN := false } = .host ∧
      ({ idleWith [.rd 4] with rstN := false } : State).program = .rd 0x004#10 :: [] ∧
      ({ idleWith [.rd 4] with rstN := false } : State).rstN = false := by decide

theorem witness_OpenReadsDrawFreshValues_busy :
    nextTurn (withBlock busyBlock [.rd 8]) = .host ∧ (withBlock busyBlock [.rd 8]).program = .rd 0x008#10 :: [] ∧
      ((withBlock busyBlock [.rd 8]).blk.busy = true ∧ (0x008#10 : Addr) ≠ 0x004#10) := by decide

theorem witness_OpenReadsDrawFreshValues_unmapped :
    nextTurn (idleWith [.rd 0x3FC]) = .host ∧ (idleWith [.rd 0x3FC]).program = .rd 0x3FC#10 :: [] ∧
      ((idleWith [.rd 0x3FC]).blk.busy = false ∧ regAt (idleWith [.rd 0x3FC]).cfg 0x3FC#10 = none) := by decide

/-- The last slot, and the values on both sides of the limit. -/
theorem witness_IdleWritesToBuffers_buf :
    23 < defaultParams.nb ∧ (idleWith []).cfg.wf = true ∧ (idleWith []).cfg = defaultParams ∧
      ([255#32, 256#32].all fun v => decide (nextTurn (idleWith [.wr 0x15C v]) = .host ∧ (idleWith [.wr 0x15C v]).idle ∧
        (idleWith [.wr 0x15C v]).program = .wr (BitVec.ofNat 10 (0x100 + 4 * 23)) v :: [])) = true ∧
      (255#32).toNat < 256 ∧ ¬ (256#32).toNat < 256 := by decide

/-- The last slot, and the values on both sides of the limit. -/
theorem witness_IdleWritesToBuffers_sym :
    11 < 12 ∧ (idleWith []).cfg.wf = true ∧ (idleWith []).cfg = defaultParams ∧
      ([2047#32, 2048#32].all fun v => decide (nextTurn (idleWith [.wr 0x22C v]) = .host ∧ (idleWith [.wr 0x22C v]).idle ∧
        (idleWith [.wr 0x22C v]).program = .wr (BitVec.ofNat 10 (0x200 + 4 * 11)) v :: [])) = true ∧
      (2047#32).toNat < 2048 ∧ ¬ (2048#32).toNat < 2048 := by decide

/-- The last slot, and the values on both sides of the limit. -/
theorem witness_IdleWritesToBuffers_chr :
    32 < defaultParams.nc ∧ (idleWith []).cfg.wf = true ∧ (idleWith []).cfg = defaultParams ∧
      ([255#32, 256#32].all fun v => decide (nextTurn (idleWith [.wr 0x380 v]) = .host ∧ (idleWith [.wr 0x380 v]).idle ∧
        (idleWith [.wr 0x380 v]).program = .wr (BitVec.ofNat 10 (0x300 + 4 * 32)) v :: [])) = true ∧
      (255#32).toNat < 256 ∧ ¬ (256#32).toNat < 256 := by decide

/-- RA8 to RA11. -/
theorem witness_IdleWritesToLengths_blen :
    (idleWith []).cfg.wf = true ∧
      ([24#32, 25#32].all fun v => decide (nextTurn (idleWith [.wr 0x00C v]) = .host ∧ (idleWith [.wr 0x00C v]).idle ∧
        (idleWith [.wr 0x00C v]).program = .wr 0x00C#10 v :: [])) = true ∧
      (24#32).toNat ≤ defaultParams.nb ∧ ¬ (25#32).toNat ≤ defaultParams.nb := by decide

/-- RA8 to RA11. -/
theorem witness_IdleWritesToLengths_scnt :
    (idleWith []).cfg.wf = true ∧
      ([15#32, 16#32].all fun v => decide (nextTurn (idleWith [.wr 0x010 v]) = .host ∧ (idleWith [.wr 0x010 v]).idle ∧
        (idleWith [.wr 0x010 v]).program = .wr 0x010#10 v :: [])) = true ∧
      (15#32).toNat ≤ 15 ∧ ¬ (16#32).toNat ≤ 15 := by decide

/-- RA8 to RA11. -/
theorem witness_IdleWritesToLengths_clen :
    (idleWith []).cfg.wf = true ∧
      ([33#32, 34#32].all fun v => decide (nextTurn (idleWith [.wr 0x014 v]) = .host ∧ (idleWith [.wr 0x014 v]).idle ∧
        (idleWith [.wr 0x014 v]).program = .wr 0x014#10 v :: [])) = true ∧
      (33#32).toNat ≤ defaultParams.nc ∧ ¬ (34#32).toNat ≤ defaultParams.nc := by decide

/-- RA16 to RA18. -/
theorem witness_IdleWritesToStatus :
    ([0#32, 1#32, 2#32, 3#32].all fun v => decide (nextTurn (idleWith [.wr 4 v]) = .host ∧ (idleWith [.wr 4 v]).idle ∧
      (idleWith [.wr 4 v]).program = .wr 0x004#10 v :: [])) = true := by decide

/-- RA5, RA7, RA12. -/
theorem witness_IdleWritesThatAreDropped :
    ([0x230#10, 0x160#10, 0x008#10, 0x018#10, 0x01C#10].all fun a => decide (nextTurn (idleWith [.wr a 0]) = .host ∧ (idleWith [.wr a 0]).idle ∧
      (idleWith [.wr a 0]).program = .wr a 0#32 :: [] ∧
      (regAt (idleWith [.wr a 0]).cfg a = none ∨ a = 0x008#10 ∨ a = 0x018#10 ∨ a = 0x01C#10))) = true := by decide

theorem witness_ReadAfterWriteReturnsTheValue :
    (idleWith [.wr 0x15C 255, .rd 0x200]).wf ∧ (idleWith [.wr 0x15C 255, .rd 0x200]).idle ∧
      (idleWith [.wr 0x15C 255, .rd 0x200]).turns = [] ∧ (Reg.buf 23).present defaultParams = true ∧
      (Reg.sym 0).present defaultParams = true ∧ Reg.buf 23 ≠ .cmd ∧ Reg.buf 23 ≠ .status ∧
      writeLegal defaultParams (.buf 23) 255 = true ∧
      (idleWith [.wr 0x15C 255, .rd 0x200]).program = .wr (addrOf (.buf 23)) 255 :: .rd (addrOf (.sym 0)) :: [] := by decide

theorem witness_HerrIsSticky_cleared :
    ∃ t, (withBlock zeroBlock.setHerr [.wr 4 2]).blk.herr = true ∧
      step (withBlock zeroBlock.setHerr [.wr 4 2]) = .next t ∧ t.blk.herr = false := ⟨_, rfl, rfl, rfl⟩

theorem witness_HerrIsSticky_reset :
    ∃ t, ({ holding zeroBlock.setHerr with turns := [.assertReset] } : State).blk.herr = true ∧
      step { holding zeroBlock.setHerr with turns := [.assertReset] } = .next t ∧ t.blk.herr = false := ⟨_, rfl, rfl, rfl⟩

/-- While busy the clearing write leaves it. -/
theorem witness_HerrIsSticky_kept :
    ∃ t, (withBlock busyBlock.setHerr [.wr 4 2]).blk.herr = true ∧
      step (withBlock busyBlock.setHerr [.wr 4 2]) = .next t ∧ t.blk.herr = true := ⟨_, rfl, rfl, rfl⟩

theorem witness_BusyChangesOnlyAtIssueCommitAndReset_rises :
    ∃ t, step (idleWith [.wr 0 1]) = .next t ∧ (idleWith [.wr 0 1]).blk.busy = false ∧ t.blk.busy = true := ⟨_, rfl, rfl, rfl⟩

theorem witness_BusyChangesOnlyAtIssueCommitAndReset_falls :
    ∃ t, step (holding busyBlock) = .next t ∧ (holding busyBlock).blk.busy = true ∧ t.blk.busy = false := ⟨_, rfl, rfl, by decide⟩

theorem witness_ErrIsWrittenOnlyByCommands :
    ∃ t, step (idleWith [.wr 0 0]) = .next t ∧ t.blk.err ≠ (idleWith [.wr 0 0]).blk.err := ⟨_, rfl, by decide⟩

theorem witness_AccAndCntAreWrittenOnlyByMnemonics :
    ∃ t, step (holding { bytesBlock (List.replicate 17 0xff) with busy := true, opl := 1#3 }) = .next t ∧
      t.blk.acc ≠ 0#18 := ⟨_, rfl, by decide⟩

theorem witness_BuildConstantsNeverChange :
    ∃ t, step (idleWith [.wr 0 1]) = .next t := ⟨_, rfl⟩

theorem witness_WaitReadsStatusUntilIdle_idle :
    nextTurn (idleWith [.wait]) = .host ∧ (idleWith [.wait]).rstN = true ∧
      (idleWith [.wait]).program = .wait :: [] ∧ (idleWith [.wait]).blk.busy = false := by decide

theorem witness_WaitReadsStatusUntilIdle_busy :
    nextTurn (withBlock busyBlock [.wait]) = .host ∧ (withBlock busyBlock [.wait]).rstN = true ∧
      (withBlock busyBlock [.wait]).program = .wait :: [] ∧ (withBlock busyBlock [.wait]).blk.busy = true := by decide

theorem witness_LoadLinesLoadTheirBuffers_ldb :
    (idleWith (expand (.ldb [1, 2]))).wf ∧ (idleWith (expand (.ldb [1, 2]))).idle ∧ (idleWith (expand (.ldb [1, 2]))).turns = [] ∧
      [(1 : Byte), 2].length ≤ defaultParams.nb ∧ (idleWith (expand (.ldb [1, 2]))).program = expand (.ldb [1, 2]) ++ [] := by decide

theorem witness_LoadLinesLoadTheirBuffers_lds :
    (idleWith (expand (.lds [1, 2047]))).wf ∧ (idleWith (expand (.lds [1, 2047]))).idle ∧ (idleWith (expand (.lds [1, 2047]))).turns = [] ∧
      [(1 : Symbol), 2047].length ≤ 12 ∧ (idleWith (expand (.lds [1, 2047]))).program = expand (.lds [1, 2047]) ++ [] := by decide

theorem witness_LoadLinesLoadTheirBuffers_ldc :
    (idleWith (expand (.ldc ['1', 'z']))).wf ∧ (idleWith (expand (.ldc ['1', 'z']))).idle ∧ (idleWith (expand (.ldc ['1', 'z']))).turns = [] ∧
      ['1', 'z'].length ≤ defaultParams.nc ∧ (idleWith (expand (.ldc ['1', 'z']))).program = expand (.ldc ['1', 'z']) ++ [] := by decide

theorem witness_ResetAbandonsAndHolds_assert :
    nextTurn { holding busyBlock with turns := [.assertReset] } = .assertReset := by decide

theorem witness_ResetAbandonsAndHolds_release :
    nextTurn { State.reset with rstN := false, turns := [.releaseReset] } = .releaseReset := by decide

theorem witness_ResetAbandonsAndHolds_held :
    ∀ op ∈ [HostOp.rd 4, HostOp.wr 0 1], nextTurn { idleWith [op] with rstN := false } = .host ∧
      ({ idleWith [op] with rstN := false } : State).rstN = false ∧
      ({ idleWith [op] with rstN := false } : State).program = op :: [] := by decide

theorem witness_ResetAbandonsAndHolds_engine :
    nextTurn { State.reset with rstN := false, turns := [.engine] } = .engine ∧
      ({ State.reset with rstN := false, turns := [.engine] } : State).blk = Block.reset State.reset.cfg := by decide

/-- Success, and both lengths beside 17. -/
theorem witness_MnencPacksTheSeed :
    (holding (bytesBlock seedV1)).wf ∧ (holding (bytesBlock seedV1)).blk.blen = 17#7 ∧
      (holding { bytesBlock seedV1 with blen := 16#7 }).blk.blen ≠ 17#7 ∧
      (holding { bytesBlock seedV1 with blen := 18#7 }).blk.blen ≠ 17#7 := by decide

theorem witness_MndecUnpacksTheSymbols :
    (holding (symbolsBlock symbolsV1)).wf ∧ (holding (symbolsBlock symbolsV1)).blk.scnt = 12#4 ∧
      (holding { symbolsBlock symbolsV1 with scnt := 11#4 }).blk.scnt ≠ 12#4 ∧
      (holding { symbolsBlock symbolsV1 with scnt := 13#4 }).blk.scnt ≠ 12#4 := by decide

theorem witness_PackingErrorCannotOccur :
    ∃ t, exec .mndec (holding (symbolsBlock symbolsV1)) = .next t := ⟨_, rfl⟩

/-- A seed with its nibble clear, and one with it set. -/
theorem witness_SeedRoundTrip :
    (holding (bytesBlock seedV1)).wf ∧ (holding (bytesBlock seedV1)).blk.blen = 17#7 ∧
      (holding (bytesBlock seedV1)).blk.buf.getD 16 0#8 &&& 0x0F#8 = 0#8 ∧
      (holding (bytesBlock (List.replicate 17 0xff))).wf ∧
      (holding (bytesBlock (List.replicate 17 0xff))).blk.blen = 17#7 := by decide

theorem witness_SymbolRoundTrip :
    (holding (symbolsBlock symbolsV1)).wf ∧ (holding (symbolsBlock symbolsV1)).blk.scnt = 12#4 := by decide

/-- BE27: 33 characters, the capacity. -/
theorem witness_B58encWritesTheText_fits :
    (holding (bytesBlock (List.replicate 24 0xff))).wf ∧
      (encodeBytes defaultParams ((bytesBlock (List.replicate 24 0xff)).buf.take 24)).length ≤ defaultParams.nc := by
  rw [← base58Text_eq]; decide

/-- BE27 in a build with `B58_NC = 32`. -/
theorem witness_B58encWritesTheText_long :
    ({ defaultParams with nc := 32 } : Params).nc <
      (encodeBytes { defaultParams with nc := 32 } ((bytesBlock (List.replicate 24 0xff)).buf.take 24)).length := by
  rw [← base58Text_eq]; decide

/-- BD18: 24 bytes just fit. -/
theorem witness_B58decWritesTheBytes_fits :
    (holding (textBlock (List.replicate 24 '1'))).wf ∧
      IsText defaultParams ((textBlock (List.replicate 24 '1')).chr.take 24) ∧
      (decodeText defaultParams ((textBlock (List.replicate 24 '1')).chr.take 24)).length ≤ defaultParams.nb := by
  refine ⟨by decide, by decide, ?_⟩
  rw [decodeText, show value58 defaultParams ((textBlock (List.replicate 24 '1')).chr.take 24) = 0 by decide,
    Nat.digits_zero]
  decide

/-- BD24. -/
theorem witness_B58decWritesTheBytes_notText :
    ¬ IsText defaultParams (validChars (textBlock ['1', ' '])) := by decide

/-- BD19: 25 bytes do not. -/
theorem witness_B58decWritesTheBytes_long :
    IsText defaultParams ((textBlock (List.replicate 25 '1')).chr.take 25) ∧
      defaultParams.nb < (decodeText defaultParams ((textBlock (List.replicate 25 '1')).chr.take 25)).length := by
  refine ⟨by decide, ?_⟩
  rw [decodeText, show value58 defaultParams ((textBlock (List.replicate 25 '1')).chr.take 25) = 0 by decide,
    Nat.digits_zero]
  decide

theorem witness_Base58DecodeOfEncode :
    defaultParams.wf = true ∧ base58Bytes defaultParams (base58Text defaultParams [0, 1, 0]) = some [0, 1, 0] := by decide

theorem witness_Base58EncodeOfDecode :
    defaultParams.wf = true ∧ IsText defaultParams (['1', '1', '6'].map charCode) := by decide

theorem witness_LeadingZerosArePreserved :
    defaultParams.wf = true ∧ lz (base58Text defaultParams [0, 0, 5]) 0x31#8 = 2 := by decide

theorem witness_Base58RoundTripInTheBlock_encode :
    ∃ t, (holding (bytesBlock [0, 1, 0])).wf ∧ exec .b58enc (holding (bytesBlock [0, 1, 0])) = .next t ∧
      t.blk.err = 0#4 := ⟨_, by decide, rfl, by decide⟩

theorem witness_Base58RoundTripInTheBlock_decode :
    ∃ t, (holding (textBlock ['1', '2'])).wf ∧ exec .b58dec (holding (textBlock ['1', '2'])) = .next t ∧
      t.blk.err = 0#4 := ⟨_, by decide, rfl, by decide⟩

theorem witness_LeadingZerosDoNotCount :
    digitValues defaultParams (['1', '2', '1'].map charCode) = some [0, 1, 0] := by decide

theorem witness_DefaultB58encAlwaysFits :
    (holding (bytesBlock seedV1)).wf ∧ (holding (bytesBlock seedV1)).cfg.nb ≤ 24 ∧ 33 ≤ (holding (bytesBlock seedV1)).cfg.nc := by decide

theorem witness_FailedOperationChangesNothingElse :
    ∃ t, exec .mnenc State.reset = .next t ∧ t.blk.err ≠ 0#4 := ⟨_, rfl, by decide⟩

theorem witness_ErrorCodesOfEachOperation :
    (∃ t, exec .mnenc State.reset = .next t) ∧ (∃ t, exec .mndec State.reset = .next t) ∧
      (∃ t, exec .b58enc State.reset = .next t) ∧ (∃ t, exec .b58dec State.reset = .next t) := ⟨⟨_, rfl⟩, ⟨_, rfl⟩, ⟨_, rfl⟩, ⟨_, rfl⟩⟩

theorem witness_CommitWriteMatrix :
    ∃ t, exec .b58dec (holding (textBlock ['1', '2'])) = .next t := ⟨_, rfl⟩

/-- Two states that differ in `ERR`, `HERR` and `ACC`. -/
theorem witness_ResultsIgnoreFlagsAndHistory :
    ∃ t t', (holding (bytesBlock seedV1)).blk ≠
        (holding { bytesBlock seedV1 with err := 5#4, herr := true, acc := 9#18 }).blk ∧
      exec .mnenc (holding (bytesBlock seedV1)) = .next t ∧
      exec .mnenc (holding { bytesBlock seedV1 with err := 5#4, herr := true, acc := 9#18 }) = .next t' ∧
      t.blk.err = 0#4 := ⟨_, _, by decide, rfl, rfl, by decide⟩

theorem witness_OplIsNotReadWhileIdle :
    ∃ t, (idleWith [.rd 0]).blk.busy = false ∧ step (idleWith [.rd 0]) = .next t := ⟨_, rfl, rfl⟩

theorem witness_EveryStepKeepsTheInvariant :
    ∃ t, RunInv (holding busyBlock) ∧ step (holding busyBlock) = .next t := ⟨_, by decide, rfl⟩

theorem witness_NoStateIsStuck :
    RunInv (holding busyBlock) ∧ RunInv { State.reset with rstN := false } := by decide

/-- Two writes of the host between issue and commit. -/
theorem witness_OperandsAreThoseAtIssue :
    ∃ u, ({ holding busyBlock with turns := [.host, .host, .engine], program := [.wr 0x100 1, .rd 8] } : State).rstN = true ∧
      busyBlock.busy = true ∧ latchedInstr busyBlock.opl = some .mnenc ∧
      [Turn.host, .host, .engine] = List.replicate 2 Turn.host ++ .engine :: [] ∧
      exec .mnenc { holding busyBlock with turns := [.host, .host, .engine], program := [.wr 0x100 1, .rd 8] } =
        .next u := ⟨_, rfl, rfl, by decide, rfl, rfl⟩

theorem witness_StartedOperationsCommit :
    RunInv { holding busyBlock with turns := [.host, .releaseReset] } ∧ busyBlock.busy = true ∧
      ({ holding busyBlock with turns := [.host, .releaseReset] } : State).noReset := by decide

theorem witness_CommandThenWaitGetsTheResult :
    RunInv { idleWith [.wr 0 3, .wait] with turns := [.engine, .host, .host] } ∧
      ({ idleWith [.wr 0 3, .wait] with turns := [.engine, .host, .host] } : State).idle ∧
      ({ idleWith [.wr 0 3, .wait] with turns := [.engine, .host, .host] } : State).noReset ∧
      decode 3#32 = .ok .b58enc ∧ (idleWith [.wr 0 3, .wait]).program = .wr 0x000#10 3#32 :: .wait :: [] := by decide

/-- One host: a command polled with `WAIT`, an illegal word with no wait after it, and a last command with none. -/
def polledOnce : State := idleWith [.wr 0 3, .wait, .wr 0 5, .wr 0 1]

/-- The same accesses with single reads of `STATUS`, one of them while `BUSY = 1`, and another latency. -/
def polledTwice : State :=
  { idleWith [.wr 0 3, .rd 4, .rd 4, .wr 0 5, .wr 0 1] with turns := [.host, .host, .engine] }

theorem witness_LatencyDoesNotChangeTheResult :
    ∃ t t', RunInv polledOnce ∧ polledOnce.idle ∧ polledTwice.cfg = polledOnce.cfg ∧
      polledTwice.blk = polledOnce.blk ∧ polledTwice.rstN = polledOnce.rstN ∧
      dataAccesses polledTwice.program = dataAccesses polledOnce.program ∧
      polledOnce.noReset ∧ polledTwice.noReset ∧
      keepsBusyRule 6 polledOnce = true ∧ keepsBusyRule 7 polledTwice = true ∧
      runFor 6 polledOnce = .next t ∧ t.over ∧ runFor 7 polledTwice = .next t' ∧ t'.over :=
  ⟨_, _, by decide, by decide, rfl, rfl, rfl, by decide, by decide, by decide, by decide, by decide, rfl, by decide,
    rfl, by decide⟩

/-- An illegal word needs no `WAIT`, nor does the last command, and `STATUS` may be read before it. -/
theorem witness_DisciplinedProgramsKeepTheBusyRule :
    polledOnce.idle ∧ disciplined polledOnce.program = true ∧
      disciplined (idleWith [.wr 0 0x101, .rd 8, .wr 0 3, .rd 4, .wait, .rd 8]).program = true := by decide

/-- The shape of P4 of the spec's programs: a write with no `WAIT` after a command breaks R143, and a run with the
write before the commit shows it. -/
theorem test_broken_rule_is_seen :
    disciplined [.wr 0 3, .wr 0x100 1, .wait] = false ∧
      keepsBusyRule 2 { idleWith [.wr 0 3, .wr 0x100 1, .wait] with turns := [.host, .host] } = false ∧
      keepsBusyRule 4 (idleWith [.wr 0 3, .wr 0x100 1, .wait]) = true := by decide

theorem witness_DisciplinedProgramsEnd :
    RunInv (idleWith [.wr 0 3, .wait, .rd 8]) ∧ (idleWith [.wr 0 3, .wait, .rd 8]).idle ∧
      disciplined (idleWith [.wr 0 3, .wait, .rd 8]).program = true ∧ (idleWith [.wr 0 3, .wait, .rd 8]).noReset := by decide

end Sys2Proof.Tests
end

section
/-! PROOFS. The laws the statements of 10_state.md rest on: the command latch, the register map's two control words,
the bit counts of the mnemonic loops, and what one step can do to the block. -/

namespace Sys2Proof.Machine

/-! ### The command word and its latch (R61, R62) -/

/-- The decoder accepts only the word the encoder writes. -/
theorem eq_encode_of_decode {w : Word} {i : Instr} (h : decode w = .ok i) : w = encode i := by
  unfold decode at h
  split_ifs at h with _ h1 h2 h3 h4 <;> cases h
  · exact BitVec.eq_of_toNat_eq h1
  · exact BitVec.eq_of_toNat_eq h2
  · exact BitVec.eq_of_toNat_eq h3
  · exact BitVec.eq_of_toNat_eq h4

/-- The latched bits of a command word select the command it decodes to (R62). -/
theorem latchedInstr_latchOf {w : Word} {i : Instr} (h : decode w = .ok i) :
    latchedInstr (latchOf w) = some i := by
  rw [eq_encode_of_decode h]
  cases i with
  | mnenc => exact Laws.Latch.mnenc.2
  | mndec => exact Laws.Latch.mndec.2
  | b58enc => exact Laws.Latch.b58enc.2
  | b58dec => exact Laws.Latch.b58dec.2

/-- A word written to `CMD` issues the command it decodes to, or is IllegalCommand (R62, R64). -/
theorem command_cases (w : Word) (b : Block) :
    (∃ i, decode w = .ok i ∧ b.command w = { b with opl := latchOf w, busy := true }) ∨
    ((∀ i, decode w ≠ .ok i) ∧ b.command w = { b with err := 6#4 }) := by
  unfold Block.command
  cases hd : decode w with
  | ok i => exact .inl ⟨i, rfl, rfl⟩
  | error e => exact .inr ⟨by simp, rfl⟩

/-! ### The register map and register writes (R41, R45) -/

/-- `CMD` is the first control register (R41). -/
theorem controlRegAt_eq_cmd {n : Nat} : controlRegAt n = some .cmd ↔ n = 0 := by
  unfold controlRegAt
  split <;> simp_all

/-- `CMD` stands at address 0 and nowhere else (R41). -/
theorem eq_cmdAddr_of_regAt {p : Params} {a : Addr} (h : regAt p a = some .cmd) : a = cmdAddr := by
  unfold regAt at h
  split_ifs at h with halign hctl
  · have hword : a.toNat / 4 = 0 := controlRegAt_eq_cmd.mp h
    exact BitVec.eq_of_toNat_eq (by simp; omega)
  all_goals cases h

/-- `STATUS` stands at its address (R41). -/
@[simp] theorem regAt_statusAddr (p : Params) : regAt p statusAddr = some .status := rfl

/-- A write of `STATUS` is legal for the values 0 and 2 alone (R45). -/
theorem writeLegal_status (p : Params) (v : Word) :
    writeLegal p .status v = true ↔ v = 0#32 ∨ v = 2#32 := by
  constructor
  · intro h
    simp only [writeLegal, valueOk, Bool.and_eq_true, Bool.or_eq_true, beq_iff_eq] at h
    exact h.2
  · rintro (rfl | rfl) <;> rfl

/-- No register write reaches `ACC` (R20). -/
@[simp] theorem writeReg_acc (r : Reg) (v : Word) (b : Block) : (writeReg r v b).acc = b.acc := by
  cases r <;> simp only [writeReg]
  · unfold Block.command; split <;> rfl
  · split <;> rfl

/-- No register write reaches `CNT` (R21). -/
@[simp] theorem writeReg_cnt (r : Reg) (v : Word) (b : Block) : (writeReg r v b).cnt = b.cnt := by
  cases r <;> simp only [writeReg]
  · unfold Block.command; split <;> rfl
  · split <;> rfl

/-- Only a write to `CMD` can change `BUSY`, `ERR` or `OPL` (R18, R19, R22). -/
theorem writeReg_of_ne_cmd {r : Reg} (hr : r ≠ .cmd) (v : Word) (b : Block) :
    (writeReg r v b).busy = b.busy ∧ (writeReg r v b).err = b.err ∧ (writeReg r v b).opl = b.opl := by
  cases r <;> simp only [writeReg, and_self]
  · exact absurd rfl hr
  · split <;> exact ⟨rfl, rfl, rfl⟩

/-- What a register write does to `BUSY`, `ERR` and `OPL`: an issue, an IllegalCommand, or nothing (R19, R62, R64). -/
theorem writeReg_cases (r : Reg) (v : Word) (b : Block) :
    (r = .cmd ∧ (∃ i, decode v = .ok i) ∧ writeReg r v b = { b with opl := latchOf v, busy := true }) ∨
    (r = .cmd ∧ (∀ i, decode v ≠ .ok i) ∧ writeReg r v b = { b with err := 6#4 }) ∨
    ((writeReg r v b).busy = b.busy ∧ (writeReg r v b).err = b.err ∧ (writeReg r v b).opl = b.opl) := by
  by_cases hr : r = .cmd
  · subst hr
    obtain ⟨i, hi, h⟩ | ⟨hno, h⟩ := command_cases v b
    · exact .inl ⟨rfl, ⟨i, hi⟩, h⟩
    · exact .inr (.inl ⟨rfl, hno, h⟩)
  · exact .inr (.inr (writeReg_of_ne_cmd hr v b))

/-- A register write keeps the codes of R31: it can write no code but that of IllegalCommand. -/
theorem writeReg_codesOk {b : Block} (h : b.codesOk) (r : Reg) (v : Word) : (writeReg r v b).codesOk := by
  obtain ⟨hcnt, hacc, herr⟩ := h
  refine ⟨by rwa [writeReg_cnt], by rwa [writeReg_acc], ?_⟩
  obtain ⟨-, -, he⟩ | ⟨-, -, he⟩ | ⟨-, he, -⟩ := writeReg_cases r v b <;> rw [he]
  · exact herr
  · simp
  · exact herr

/-- `OPL` names a command while `BUSY` is set (R62). -/
def Block.LatchOk (b : Block) : Prop := b.busy = true → (latchedInstr b.opl).isSome = true

theorem writeReg_latchOk {b : Block} (h : b.LatchOk) (r : Reg) (v : Word) : (writeReg r v b).LatchOk := by
  obtain ⟨-, ⟨i, hi⟩, he⟩ | ⟨-, -, he⟩ | ⟨hbusy, -, hopl⟩ := writeReg_cases r v b
  · rw [he]
    intro _
    rw [latchedInstr_latchOf hi]
    rfl
  · rw [he]
    exact h
  · unfold Block.LatchOk
    rwa [hbusy, hopl]

/-! ### The loops of the mnemonic operations (R81, R82) -/

/-- The accumulator holds no more bits than are counted. -/
def BitStream.Tight (t : BitStream) : Prop := t.acc < 2 ^ t.cnt

theorem start_tight : BitStream.start.Tight := Nat.one_pos

theorem shiftIn_tight {w v : Nat} {t : BitStream} (hv : v < 2 ^ w) (ht : t.Tight) : (t.shiftIn w v).Tight := by
  unfold BitStream.Tight at *
  rw [shiftIn_acc_eq hv, shiftIn_cnt, pow_add]
  calc t.acc * 2 ^ w + v < t.acc * 2 ^ w + 2 ^ w := by omega
    _ = (t.acc + 1) * 2 ^ w := by ring
    _ ≤ 2 ^ t.cnt * 2 ^ w := Nat.mul_le_mul_right _ ht

theorem emit_tight (w : Nat) (t : BitStream) : (t.emit w).Tight := by
  simpa [BitStream.Tight] using Nat.mod_lt _ (Nat.two_pow_pos _)

theorem emitBytes_tight {fuel : Nat} {t : BitStream} (ht : t.Tight) : (emitBytes fuel t).Tight := by
  induction fuel generalizing t with
  | zero => exact ht
  | succ fuel ih =>
    rw [emitBytes]
    split
    · exact ih (emit_tight 8 t)
    · exact ht

/-- The emitting loop takes out whole bytes until fewer than 8 bits are left. -/
theorem emitBytes_cnt {fuel : Nat} {t : BitStream} (h : t.cnt ≤ fuel) : (emitBytes fuel t).cnt = t.cnt % 8 := by
  induction fuel generalizing t with
  | zero => rw [emitBytes]; omega
  | succ fuel ih =>
    rw [emitBytes]
    split
    · rw [ih (by rw [emit_cnt]; omega), emit_cnt]; omega
    · omega

theorem packByte_tight {t : BitStream} (ht : t.Tight) (b : Byte) : (packByte t b).Tight := by
  unfold packByte
  split
  · exact emit_tight _ _
  · exact shiftIn_tight b.isLt ht

theorem packByte_cnt {t : BitStream} (h : t.cnt < 11) (b : Byte) : (packByte t b).cnt = (t.cnt + 8) % 11 := by
  unfold packByte
  split
  next hfull =>
    simp only [emit_cnt, shiftIn_cnt, symWidth] at hfull ⊢
    omega
  next hshort =>
    simp only [shiftIn_cnt, symWidth] at hshort ⊢
    omega

theorem unpackSymbol_tight {t : BitStream} (ht : t.Tight) (k : Symbol) : (unpackSymbol t k).Tight :=
  emitBytes_tight (shiftIn_tight k.isLt ht)

theorem unpackSymbol_cnt (t : BitStream) (k : Symbol) : (unpackSymbol t k).cnt = (t.cnt + 11) % 8 :=
  emitBytes_cnt (by simp)

/-- The accumulator of `MNENC` stays within its bit count (R83). -/
theorem pack_tight (bs : List Byte) : (pack bs).Tight :=
  List.foldlRecOn bs packByte start_tight fun _ ht b _ => packByte_tight ht b

/-- The accumulator of `MNDEC` stays within its bit count (R83). -/
theorem unpack_tight (ss : List Symbol) : (unpack ss).Tight :=
  List.foldlRecOn ss unpackSymbol start_tight fun _ ht k _ => unpackSymbol_tight ht k

/-- The bit count of `MNENC` depends on the number of bytes only (R83). -/
theorem pack_cnt (bs : List Byte) : (pack bs).cnt = 8 * bs.length % 11 := by
  induction bs using List.reverseRecOn with
  | nil => rfl
  | append_singleton bs b ih =>
    have hstep : pack (bs ++ [b]) = packByte (pack bs) b := by simp [pack]
    rw [hstep, packByte_cnt (by omega), ih, List.length_append, List.length_singleton]
    omega

/-- The bit count of `MNDEC` depends on the number of symbols only (R83). -/
theorem unpack_cnt (ss : List Symbol) : (unpack ss).cnt = 11 * ss.length % 8 := by
  induction ss using List.reverseRecOn with
  | nil => rfl
  | append_singleton ss k ih =>
    have hstep : unpack (ss ++ [k]) = unpackSymbol (unpack ss) k := by simp [unpack]
    rw [hstep, unpackSymbol_cnt, ih, List.length_append, List.length_singleton]
    omega

/-- Twelve symbols leave 4 bits over, so the test of `MNDEC` for the leftover never fires (R85). -/
theorem unpack_cnt_vector (sym : Vector Symbol 12) : (unpack sym.toList).cnt = padBits := by
  rw [unpack_cnt, Vector.length_toList]

/-- A stream of 4 bits leaves a residue below 16 in `ACC`. -/
theorem residue_lt {t : BitStream} (ht : t.Tight) (hc : t.cnt = padBits) :
    (BitVec.ofNat 18 t.acc).toNat < 16 := by
  unfold BitStream.Tight at ht
  rw [hc] at ht
  exact lt_of_le_of_lt (Nat.mod_le _ _) ht

/-! ### Commits (R62) -/

/-- `MNENC` raises LengthError or writes its symbols and the residue (R81). -/
theorem mnencCommit_cases (b : Block) :
    (b.blen.toNat ≠ seedLen ∧ mnencCommit b = b.raise .lengthError) ∨
    (b.blen.toNat = seedLen ∧ mnencCommit b = Block.succeed { b with
      sym := symbolVector (pack (seedBytes b)).out
      scnt := BitVec.ofNat 4 nsym
      acc := BitVec.ofNat 18 (pack (seedBytes b)).acc
      cnt := BitVec.ofNat 5 (pack (seedBytes b)).cnt }) := by
  by_cases h : b.blen.toNat = seedLen
  · exact .inr ⟨h, if_neg (not_not.mpr h)⟩
  · exact .inl ⟨h, if_pos h⟩

/-- `MNDEC` raises LengthError or writes its bytes and the residue; it never raises PackingError (R82, R85). -/
theorem mndecCommit_cases (b : Block) :
    (b.scnt.toNat ≠ nsym ∧ mndecCommit b = b.raise .lengthError) ∨
    (b.scnt.toNat = nsym ∧ mndecCommit b = Block.succeed { b with
      buf := overwrite (unpackedSeed b.sym.toList) b.buf
      blen := BitVec.ofNat 7 seedLen
      acc := BitVec.ofNat 18 (unpack b.sym.toList).acc
      cnt := BitVec.ofNat 5 (unpack b.sym.toList).cnt }) := by
  by_cases h : b.scnt.toNat = nsym
  · refine .inr ⟨h, ?_⟩
    rw [mndecCommit, if_neg (not_not.mpr h), if_neg (not_not.mpr (unpack_cnt_vector b.sym))]
  · exact .inl ⟨h, if_pos h⟩

/-- `B58ENC` raises CapacityError or writes its text (R101). -/
theorem b58encCommit_cases (p : Params) (b : Block) :
    (p.nc < (base58Text p (validBytes b)).length ∧ b58encCommit p b = b.raise .capacityError) ∨
    ((base58Text p (validBytes b)).length ≤ p.nc ∧ b58encCommit p b = Block.succeed { b with
      chr := overwrite (base58Text p (validBytes b)) b.chr
      clen := BitVec.ofNat 7 (base58Text p (validBytes b)).length }) := by
  by_cases h : p.nc < (base58Text p (validBytes b)).length
  · exact .inl ⟨h, if_pos h⟩
  · exact .inr ⟨not_lt.mp h, if_neg h⟩

/-- `B58DEC` raises DecodeError, raises CapacityError, or writes its bytes (R102, R123). -/
theorem b58decCommit_cases (p : Params) (b : Block) :
    (base58Bytes p (validChars b) = none ∧ b58decCommit p b = b.raise .decodeError) ∨
    (∃ bs, base58Bytes p (validChars b) = some bs ∧
      ((p.nb < bs.length ∧ b58decCommit p b = b.raise .capacityError) ∨
       (bs.length ≤ p.nb ∧ b58decCommit p b = Block.succeed { b with
          buf := overwrite bs b.buf
          blen := BitVec.ofNat 7 bs.length }))) := by
  unfold b58decCommit
  cases base58Bytes p (validChars b) with
  | none => exact .inl ⟨rfl, rfl⟩
  | some bs =>
    refine .inr ⟨bs, rfl, ?_⟩
    by_cases h : p.nb < bs.length
    · exact .inl ⟨h, if_pos h⟩
    · exact .inr ⟨not_lt.mp h, if_neg h⟩

/-- What the commit of `i` leaves as it was, and that it clears `BUSY` (R27). -/
def Block.CommitFrame (i : Instr) (b b' : Block) : Prop :=
  b'.busy = false ∧ b'.herr = b.herr ∧ b'.opl = b.opl ∧
  ((i = .mnenc ∨ i = .b58enc) → b'.buf = b.buf ∧ b'.blen = b.blen) ∧
  (i ≠ .mnenc → b'.sym = b.sym ∧ b'.scnt = b.scnt) ∧
  (i ≠ .b58enc → b'.chr = b.chr ∧ b'.clen = b.clen) ∧
  ((i = .b58enc ∨ i = .b58dec) → b'.acc = b.acc ∧ b'.cnt = b.cnt)

/-- An error changes `ERR` and `BUSY` only, so it is within the frame of every operation (R124). -/
theorem raise_commitFrame (i : Instr) (e : OpError) (b : Block) : b.CommitFrame i (b.raise e) := by
  simp [Block.CommitFrame]

theorem commitOf_commitFrame (p : Params) (b : Block) (i : Instr) : b.CommitFrame i (commitOf p b i) := by
  cases i with
  | mnenc =>
    obtain ⟨-, h⟩ | ⟨-, h⟩ := mnencCommit_cases b <;> rw [commitOf, h]
    · exact raise_commitFrame _ _ b
    · simp [Block.CommitFrame]
  | mndec =>
    obtain ⟨-, h⟩ | ⟨-, h⟩ := mndecCommit_cases b <;> rw [commitOf, h]
    · exact raise_commitFrame _ _ b
    · simp [Block.CommitFrame]
  | b58enc =>
    obtain ⟨-, h⟩ | ⟨-, h⟩ := b58encCommit_cases p b <;> rw [commitOf, h]
    · exact raise_commitFrame _ _ b
    · simp [Block.CommitFrame]
  | b58dec =>
    obtain ⟨-, h⟩ | ⟨bs, -, ⟨-, h⟩ | ⟨-, h⟩⟩ := b58decCommit_cases p b <;> rw [commitOf, h]
    · exact raise_commitFrame _ _ b
    · exact raise_commitFrame _ _ b
    · simp [Block.CommitFrame]

/-- Every commit clears `BUSY` (R27). -/
@[simp] theorem commitOf_busy (p : Params) (b : Block) (i : Instr) : (commitOf p b i).busy = false :=
  (commitOf_commitFrame p b i).1

/-- A legal build has room for the seed (R5). -/
theorem seedLen_le_nb {p : Params} (hp : p.wf = true) : seedLen ≤ p.nb := by
  simp only [Params.wf, Params.nbOk, Bool.and_eq_true, decide_eq_true_eq] at hp
  obtain ⟨⟨⟨hnb, -⟩, -⟩, -⟩ := hp
  exact hnb

/-- The seed of a block that fits its build is whole. -/
theorem seedBytes_length {p : Params} {b : Block} (hp : p.wf = true) (hf : b.fits p) :
    (seedBytes b).length = seedLen := by
  obtain ⟨hbuf, -⟩ := hf
  rw [seedBytes, List.length_take, hbuf, Nat.min_eq_left (seedLen_le_nb hp)]

/-- An error other than the reserved ones keeps the codes of R31. -/
theorem raise_codesOk {b : Block} {e : OpError} (h : b.codesOk)
    (he : e = .lengthError ∨ e = .decodeError ∨ e = .capacityError) : (b.raise e).codesOk := by
  obtain ⟨hcnt, hacc, -⟩ := h
  refine ⟨hcnt, hacc, ?_⟩
  obtain rfl | rfl | rfl := he <;> simp [OpError.code]

/-- The end of an operation that leaves a stream of 4 bits as its residue keeps the codes of R31. -/
theorem succeed_codesOk_of_residue {b : Block} {t : BitStream} (ht : t.Tight) (hc : t.cnt = padBits)
    (hacc : b.acc = BitVec.ofNat 18 t.acc) (hcnt : b.cnt = BitVec.ofNat 5 t.cnt) : b.succeed.codesOk := by
  refine ⟨.inr ?_, ?_, .inl rfl⟩
  · rw [Block.succeed_cnt, hcnt, hc]
  · rw [Block.succeed_acc, hacc]
    exact residue_lt ht hc

/-- A commit on a block that fits its build keeps the codes of R31: the seed's 17 bytes are all there, so `MNENC`
leaves 4 bits as `MNDEC` does (R83). -/
theorem commitOf_codesOk {p : Params} {b : Block} (hp : p.wf = true) (hf : b.fits p) (h : b.codesOk) (i : Instr) :
    (commitOf p b i).codesOk := by
  have ⟨hcnt, hacc, _⟩ := h
  cases i with
  | mnenc =>
    obtain ⟨-, he⟩ | ⟨-, he⟩ := mnencCommit_cases b <;> rw [commitOf, he]
    · exact raise_codesOk h (by simp)
    · have hc : (pack (seedBytes b)).cnt = padBits := by
        rw [pack_cnt, seedBytes_length hp hf]
        rfl
      exact succeed_codesOk_of_residue (pack_tight (seedBytes b)) hc rfl rfl
  | mndec =>
    obtain ⟨-, he⟩ | ⟨-, he⟩ := mndecCommit_cases b <;> rw [commitOf, he]
    · exact raise_codesOk h (by simp)
    · exact succeed_codesOk_of_residue (unpack_tight b.sym.toList) (unpack_cnt_vector b.sym) rfl rfl
  | b58enc =>
    obtain ⟨-, he⟩ | ⟨-, he⟩ := b58encCommit_cases p b <;> rw [commitOf, he]
    · exact raise_codesOk h (by simp)
    · exact ⟨hcnt, hacc, .inl rfl⟩
  | b58dec =>
    obtain ⟨-, he⟩ | ⟨bs, -, ⟨-, he⟩ | ⟨-, he⟩⟩ := b58decCommit_cases p b <;> rw [commitOf, he]
    · exact raise_codesOk h (by simp)
    · exact raise_codesOk h (by simp)
    · exact ⟨hcnt, hacc, .inl rfl⟩

/-! ### The accesses of the host, by what the block is doing (R44, R45, R48, R140) -/

/-- While reset is held a read returns any value and has no effect (R140). -/
theorem hostRead_of_reset {s : State} (hr : s.rstN = false) (a : Addr) : hostRead a s = s.gotAnyRead :=
  if_pos hr

/-- `STATUS` may be read while `BUSY` is set (R48). -/
theorem hostRead_busy_status {s : State} (hr : s.rstN = true) (hb : s.blk.busy = true) :
    hostRead statusAddr s = s.gotRead (statusWord s.blk) := by
  simp [hostRead, hr, hb]

/-- No other register may be read while `BUSY` is set (R48). -/
theorem hostRead_busy_other {s : State} (hr : s.rstN = true) (hb : s.blk.busy = true) {a : Addr}
    (ha : a ≠ statusAddr) : hostRead a s = s.gotAnyRead.markHerr := by
  simp [hostRead, hr, hb, ha]

/-- A read of an unmapped address of an idle block is an illegal access (R44). -/
theorem hostRead_idle_unmapped {s : State} (hidle : s.idle) {a : Addr} (ha : regAt s.cfg a = none) :
    hostRead a s = s.gotAnyRead.markHerr := by
  simp [hostRead, hidle.1, hidle.2, ha]

/-- A read of a register of an idle block returns its value (R44). -/
theorem hostRead_idle_mapped {s : State} (hidle : s.idle) {a : Addr} {r : Reg} (ha : regAt s.cfg a = some r) :
    hostRead a s = s.gotRead (readReg s.blk r) := by
  simp [hostRead, hidle.1, hidle.2, ha]

/-- While reset is held a write has no effect (R140). -/
theorem hostWrite_of_reset {s : State} (hr : s.rstN = false) (a : Addr) (v : Word) : hostWrite a v s = s :=
  if_pos hr

/-- While `BUSY` is set every write is dropped and marked (R48). -/
theorem hostWrite_busy {s : State} (hr : s.rstN = true) (hb : s.blk.busy = true) (a : Addr) (v : Word) :
    hostWrite a v s = s.markHerr := by
  simp [hostWrite, hr, hb]

/-- A write to an unmapped address of an idle block is dropped and marked (R45). -/
theorem hostWrite_idle_unmapped {s : State} (hidle : s.idle) {a : Addr} (ha : regAt s.cfg a = none) (v : Word) :
    hostWrite a v s = s.markHerr := by
  simp [hostWrite, hidle.1, hidle.2, ha]

/-- A write to a register of an idle block is the register write where it is legal, and else the mark (R45). -/
theorem hostWrite_idle_mapped {s : State} (hidle : s.idle) {a : Addr} {r : Reg} (ha : regAt s.cfg a = some r)
    (v : Word) :
    hostWrite a v s = { s with blk := if writeLegal s.cfg r v then writeReg r v s.blk else s.blk.setHerr } := by
  cases hl : writeLegal s.cfg r v <;> simp [hostWrite, hidle.1, hidle.2, ha, hl, State.markHerr]

/-! ### What one step can do to the block -/

@[simp] theorem hostWrite_cfg (a : Addr) (v : Word) (s : State) : (hostWrite a v s).cfg = s.cfg := by
  obtain ⟨-, h⟩ | ⟨-, h⟩ | ⟨-, -, r, -, -, h⟩ := hostWrite_cases a v s <;> rw [h]
  rfl

@[simp] theorem hostWrite_rstN (a : Addr) (v : Word) (s : State) : (hostWrite a v s).rstN = s.rstN := by
  obtain ⟨-, h⟩ | ⟨-, h⟩ | ⟨-, -, r, -, -, h⟩ := hostWrite_cases a v s <;> rw [h]
  rfl

@[simp] theorem hostMove_cfg (s : State) : (hostMove s).cfg = s.cfg := by
  obtain ⟨-, h⟩ | ⟨a, rest, -, h⟩ | ⟨a, v, rest, -, h⟩ | ⟨rest, -, ⟨-, h⟩ | ⟨-, h⟩⟩ := hostMove_cases s <;>
    simp [h]

@[simp] theorem hostMove_rstN (s : State) : (hostMove s).rstN = s.rstN := by
  obtain ⟨-, h⟩ | ⟨a, rest, -, h⟩ | ⟨a, v, rest, -, h⟩ | ⟨rest, -, ⟨-, h⟩ | ⟨-, h⟩⟩ := hostMove_cases s <;>
    simp [h]

/-- What the host's move can do to the block: nothing, the mark of an illegal access, or one legal register write to
the idle block. The last two need reset released. -/
theorem hostMove_blk_cases (s : State) :
    (hostMove s).blk = s.blk ∨
    (s.rstN = true ∧ (hostMove s).blk = s.blk.setHerr) ∨
    (s.idle ∧ ∃ a v rest r, s.program = .wr a v :: rest ∧ regAt s.cfg a = some r ∧ writeLegal s.cfg r v = true ∧
      (hostMove s).blk = writeReg r v s.blk) := by
  have hread (a : Addr) : (hostRead a s).blk = s.blk ∨ (s.rstN = true ∧ (hostRead a s).blk = s.blk.setHerr) := by
    cases hr : s.rstN with
    | false => exact .inl (by rw [hostRead_of_reset hr, State.gotAnyRead_blk])
    | true => simpa using hostRead_blk a s
  obtain ⟨-, h⟩ | ⟨a, rest, -, h⟩ | ⟨a, v, rest, hp, h⟩ | ⟨rest, -, ⟨-, h⟩ | ⟨-, h⟩⟩ := hostMove_cases s <;> rw [h]
  · exact .inl rfl
  · exact (hread a).imp_right .inl
  · obtain ⟨-, hw⟩ | ⟨hr, hw⟩ | ⟨hr, hb, r, ha, hl, hw⟩ := hostWrite_cases a v s <;> rw [hw]
    · exact .inl rfl
    · exact .inr (.inl ⟨hr, rfl⟩)
    · exact .inr (.inr ⟨⟨hr, hb⟩, a, v, rest, r, hp, ha, hl, rfl⟩)
  · exact (hread statusAddr).imp_right .inl
  · exact (hread statusAddr).imp_right .inl

/-- The ways a step takes the block and the reset pin of `s` to those of `t`. -/
inductive BlockMove (s t : State) : Prop where
  /-- No access, a legal read, a dropped access under reset, or an engine with nothing to commit. -/
  | quiet (hturn : nextTurn s = .host ∨ nextTurn s = .engine) (hblk : t.blk = s.blk) (hrst : t.rstN = s.rstN)
  /-- An illegal access of the host (R126). -/
  | mark (hturn : nextTurn s = .host) (hreleased : s.rstN = true) (hblk : t.blk = s.blk.setHerr)
      (hrst : t.rstN = s.rstN)
  /-- A legal register write of the host (R45). -/
  | write (hturn : nextTurn s = .host) (hidle : s.idle) (a : Addr) (v : Word) (rest : List HostOp) (r : Reg)
      (hprog : s.program = .wr a v :: rest) (hreg : regAt s.cfg a = some r) (hlegal : writeLegal s.cfg r v = true)
      (hblk : t.blk = writeReg r v s.blk) (hrst : t.rstN = s.rstN)
  /-- The commit of the latched operation (R62). -/
  | commit (hturn : nextTurn s = .engine) (hbusy : s.blk.busy = true) {i : Instr}
      (hlatch : latchedInstr s.blk.opl = some i) (hblk : t.blk = commitOf s.cfg s.blk i) (hrst : t.rstN = s.rstN)
  /-- The assertion of reset (R28). -/
  | assertReset (hturn : nextTurn s = .assertReset) (hblk : t.blk = Block.reset s.cfg) (hrst : t.rstN = false)
  /-- The release of reset (R140). -/
  | releaseReset (hturn : nextTurn s = .releaseReset) (hblk : t.blk = s.blk) (hrst : t.rstN = true)

theorem step_blockMove {s t : State} (h : step s = .next t) : BlockMove s t := by
  obtain ⟨hn, rfl⟩ | ⟨hn, -, rfl⟩ | ⟨hn, hb, i, hi, rfl⟩ | ⟨hn, rfl⟩ | ⟨hn, rfl⟩ := step_cases h
  · have hrst : (hostMove s.popTurn).rstN = s.rstN := hostMove_rstN s.popTurn
    obtain hblk | ⟨hr, hblk⟩ | ⟨hidle, a, v, rest, r, hprog, hreg, hlegal, hblk⟩ := hostMove_blk_cases s.popTurn
    · exact .quiet (.inl hn) hblk hrst
    · exact .mark hn hr hblk hrst
    · exact .write hn hidle a v rest r hprog hreg hlegal hblk hrst
  · exact .quiet (.inr hn) rfl rfl
  · exact .commit hn hb hi rfl rfl
  · exact .assertReset hn rfl rfl
  · exact .releaseReset hn rfl rfl

/-- No step writes the constants of the build (R142, R152). -/
theorem step_cfg {s t : State} (h : step s = .next t) : t.cfg = s.cfg := by
  obtain ⟨-, rfl⟩ | ⟨-, -, rfl⟩ | ⟨-, -, i, -, rfl⟩ | ⟨-, rfl⟩ | ⟨-, rfl⟩ := step_cases h <;> simp

end Sys2Proof.Machine
end

section
/-! PROOFS. The statements of 10_state.md about the invariant, the flags, the commits and the build. -/

namespace Sys2Proof.Machine

/-! ### The invariant of every run (R31) -/

theorem reset_codesOk (p : Params) : (Block.reset p).codesOk := by
  simp [Block.codesOk, Block.reset]

/-- The part of `RunInv` that speaks of the block alone. -/
def Block.Inv (p : Params) (b : Block) : Prop := b.fits p ∧ b.codesOk ∧ b.LatchOk

theorem reset_inv (p : Params) : (Block.reset p).Inv p :=
  ⟨reset_fits p, reset_codesOk p, fun h => Bool.noConfusion h⟩

theorem setHerr_inv {p : Params} {b : Block} (h : b.Inv p) : b.setHerr.Inv p := h

theorem writeReg_inv {p : Params} {r : Reg} {v : Word} {b : Block} (hp : p.wf = true)
    (hl : writeLegal p r v = true) (h : b.Inv p) : (writeReg r v b).Inv p := by
  obtain ⟨hfits, hcodes, hlatch⟩ := h
  exact ⟨writeReg_fits hp hl hfits, writeReg_codesOk hcodes r v, writeReg_latchOk hlatch r v⟩

theorem commitOf_inv {p : Params} {b : Block} (hp : p.wf = true) (h : b.Inv p) (i : Instr) :
    (commitOf p b i).Inv p := by
  obtain ⟨hfits, hcodes, -⟩ := h
  refine ⟨commitOf_fits hp hfits i, commitOf_codesOk hp hfits hcodes i, fun hbusy => ?_⟩
  rw [commitOf_busy] at hbusy
  cases hbusy

theorem runInv_iff (s : State) :
    RunInv s ↔ s.cfg.wf = true ∧ s.blk.Inv s.cfg ∧ (s.rstN = false → s.blk = Block.reset s.cfg) := by
  constructor
  · rintro ⟨⟨hp, hfits⟩, hcodes, hlatch, hreset⟩
    exact ⟨hp, ⟨hfits, hcodes, hlatch⟩, hreset⟩
  · rintro ⟨hp, ⟨hfits, hcodes, hlatch⟩, hreset⟩
    exact ⟨⟨hp, hfits⟩, hcodes, hlatch, hreset⟩

/-- Every move keeps the block's part of the invariant. -/
theorem BlockMove.inv {s t : State} (m : BlockMove s t) (hp : s.cfg.wf = true) (h : s.blk.Inv s.cfg) :
    t.blk.Inv s.cfg := by
  cases m with
  | quiet _ hblk _ => rwa [hblk]
  | mark _ _ hblk _ => rw [hblk]; exact setHerr_inv h
  | write _ _ _ _ _ _ _ _ hlegal hblk _ => rw [hblk]; exact writeReg_inv hp hlegal h
  | commit _ _ _ hblk _ => rw [hblk]; exact commitOf_inv hp h _
  | assertReset _ hblk _ => rw [hblk]; exact reset_inv s.cfg
  | releaseReset _ hblk _ => rwa [hblk]

/-- While reset is held nothing moves the block from its reset state: host accesses have no effect, and the block in
its reset state has no commit to make (R140). -/
theorem BlockMove.reset_held {s t : State} (m : BlockMove s t)
    (h : s.rstN = false → s.blk = Block.reset s.cfg) (ht : t.rstN = false) : t.blk = Block.reset s.cfg := by
  cases m with
  | quiet _ hblk hrst => rw [hblk, h (hrst ▸ ht)]
  | mark _ hreleased _ hrst => rw [hrst, hreleased] at ht; cases ht
  | write _ hidle _ _ _ _ _ _ _ _ hrst => rw [hrst, hidle.1] at ht; cases ht
  | commit _ hbusy _ _ hrst => rw [h (hrst ▸ ht)] at hbusy; cases hbusy
  | assertReset _ hblk _ => exact hblk
  | releaseReset _ _ hrst => rw [hrst] at ht; cases ht

/-- Settles O50: each kind of move of the block keeps the invariant. -/
theorem everyStepKeepsTheInvariant : Obligations.EveryStepKeepsTheInvariant := by
  intro s t hinv hstep
  obtain ⟨hp, hblk, hreset⟩ := (runInv_iff s).mp hinv
  have hmove := step_blockMove hstep
  rw [runInv_iff, step_cfg hstep]
  exact ⟨hp, hmove.inv hp hblk, hmove.reset_held hreset⟩

/-- Settles O51: the default parameters are legal, and the reset block meets the block's part of the invariant. -/
theorem resetMeetsTheInvariant : Obligations.ResetMeetsTheInvariant := by
  refine (runInv_iff State.reset).mpr ⟨?_, reset_inv defaultParams, fun _ => rfl⟩
  show defaultParams.wf = true
  decide

/-! ### `BUSY` and `ERR` (R18, R19) -/

/-- Where `BUSY` rises, the host issued a command (R62). -/
theorem BlockMove.busy_rises {s t : State} (m : BlockMove s t) (hs : s.blk.busy = false) (ht : t.blk.busy = true) :
    nextTurn s = .host ∧ s.rstN = true ∧
      ∃ w i rest, s.program = .wr cmdAddr w :: rest ∧ decode w = .ok i ∧
        t.blk = { s.blk with opl := latchOf w, busy := true } := by
  cases m with
  | write hturn hidle a v rest r hprog hreg _ hblk _ =>
    rw [hblk] at ht ⊢
    obtain ⟨rfl, ⟨i, hi⟩, he⟩ | ⟨-, -, he⟩ | ⟨he, -, -⟩ := writeReg_cases r v s.blk
    · cases eq_cmdAddr_of_regAt hreg
      exact ⟨hturn, hidle.1, v, i, rest, hprog, hi, he⟩
    · rw [he] at ht
      exact absurd (hs.symm.trans ht) Bool.false_ne_true
    · exact absurd (hs.symm.trans (he.symm.trans ht)) Bool.false_ne_true
  | quiet _ hblk _ => simp [hblk, hs] at ht
  | mark _ _ hblk _ => simp [hblk, hs] at ht
  | commit _ _ _ hblk _ => simp [hblk] at ht
  | assertReset _ hblk _ => simp [hblk, Block.reset] at ht
  | releaseReset _ hblk _ => simp [hblk, hs] at ht

/-- Where `BUSY` falls, the engine moved or reset was asserted (R27, R141): the host cannot write the block then. -/
theorem BlockMove.busy_falls {s t : State} (m : BlockMove s t) (hs : s.blk.busy = true) (ht : t.blk.busy = false) :
    nextTurn s = .engine ∨ nextTurn s = .assertReset := by
  cases m with
  | commit hturn _ _ _ _ => exact .inl hturn
  | assertReset hturn _ _ => exact .inr hturn
  | write _ hidle _ _ _ _ _ _ _ _ _ => exact absurd (hidle.2.symm.trans hs) Bool.false_ne_true
  | quiet _ hblk _ => simp [hblk, hs] at ht
  | mark _ _ hblk _ => simp [hblk, hs] at ht
  | releaseReset _ hblk _ => simp [hblk, hs] at ht

/-- Settles O22. -/
theorem busyChangesOnlyAtIssueCommitAndReset : Obligations.BusyChangesOnlyAtIssueCommitAndReset := fun _ _ hstep =>
  ⟨(step_blockMove hstep).busy_rises, (step_blockMove hstep).busy_falls⟩

/-- Settles O23: of the moves of the block only a commit, a reset and the write of an illegal word reach `ERR`. -/
theorem errIsWrittenOnlyByCommands : Obligations.ErrIsWrittenOnlyByCommands := by
  intro s t hstep herr
  cases step_blockMove hstep with
  | commit hturn hbusy _ _ _ => exact .inl ⟨hturn, hbusy⟩
  | assertReset hturn _ _ => exact .inr (.inl hturn)
  | write hturn hidle a v rest r hprog hreg _ hblk _ =>
    rw [hblk] at herr ⊢
    obtain ⟨-, -, he⟩ | ⟨rfl, hno, he⟩ | ⟨-, he, -⟩ := writeReg_cases r v s.blk
    · exact absurd (congrArg Block.err he) herr
    · cases eq_cmdAddr_of_regAt hreg
      exact .inr (.inr ⟨hturn, hidle, congrArg Block.err he, v, rest, hprog, hno⟩)
    · exact absurd he herr
  | quiet _ hblk _ => exact absurd (congrArg Block.err hblk) herr
  | mark _ _ hblk _ => exact absurd (congrArg Block.err hblk) herr
  | releaseReset _ hblk _ => exact absurd (congrArg Block.err hblk) herr

/-! ### The frame of the commits (R27) -/

/-- Settles O47. -/
theorem commitWriteMatrix : Obligations.CommitWriteMatrix := by
  intro i s t h
  rw [exec_eq, step_next_eq] at h
  subst h
  exact ⟨rfl, commitOf_commitFrame s.cfg s.blk i⟩

/-! ### `OPL` of an idle block (R22) -/

/-- The block with another value in `OPL`. -/
def Block.withOpl (o : BitVec 3) (b : Block) : Block := { b with opl := o }

/-- The state whose block has another value in `OPL`. -/
def State.withOpl (o : BitVec 3) (s : State) : State := { s with blk := s.blk.withOpl o }

/-- The states are equal, or differ in `OPL` alone, which is `o` in the second. -/
def State.SameButOpl (o : BitVec 3) (t t' : State) : Prop := t' = t ∨ t' = t.withOpl o

/-- No register shows `OPL` (R22). -/
theorem readReg_withOpl (o : BitVec 3) (b : Block) (r : Reg) : readReg (b.withOpl o) r = readReg b r := by
  cases r <;> rfl

/-- A register write carries `OPL` along, or issues a command and so overwrites it. -/
theorem writeReg_withOpl (o : BitVec 3) (r : Reg) (v : Word) (b : Block) :
    writeReg r v (b.withOpl o) = writeReg r v b ∨ writeReg r v (b.withOpl o) = (writeReg r v b).withOpl o := by
  cases r with
  | cmd =>
    simp only [writeReg, Block.command]
    split
    · exact .inl rfl
    · exact .inr rfl
  | status =>
    simp only [writeReg]
    split <;> exact .inr rfl
  | err | acc | cnt | blen | scnt | clen | buf | sym | chr => exact .inr rfl

@[simp] theorem State.withOpl_cfg (o : BitVec 3) (s : State) : (s.withOpl o).cfg = s.cfg := rfl
@[simp] theorem State.withOpl_blk (o : BitVec 3) (s : State) : (s.withOpl o).blk = s.blk.withOpl o := rfl
@[simp] theorem State.withOpl_rstN (o : BitVec 3) (s : State) : (s.withOpl o).rstN = s.rstN := rfl
@[simp] theorem State.withOpl_program (o : BitVec 3) (s : State) : (s.withOpl o).program = s.program := rfl

/-- A host read does not depend on `OPL`. -/
@[simp] theorem hostRead_withOpl (o : BitVec 3) (a : Addr) (s : State) :
    hostRead a (s.withOpl o) = (hostRead a s).withOpl o := by
  cases hr : s.rstN with
  | false => rw [hostRead_of_reset hr, hostRead_of_reset (s := s.withOpl o) hr]; rfl
  | true =>
    cases hb : s.blk.busy with
    | true =>
      by_cases ha : a = statusAddr
      · rw [ha, hostRead_busy_status hr hb, hostRead_busy_status (s := s.withOpl o) hr hb]; rfl
      · rw [hostRead_busy_other hr hb ha, hostRead_busy_other (s := s.withOpl o) hr hb ha]; rfl
    | false =>
      have hidle : s.idle := ⟨hr, hb⟩
      cases ha : regAt s.cfg a with
      | none => rw [hostRead_idle_unmapped hidle ha, hostRead_idle_unmapped (s := s.withOpl o) hidle ha]; rfl
      | some r =>
        rw [hostRead_idle_mapped hidle ha, hostRead_idle_mapped (s := s.withOpl o) hidle ha, State.withOpl_blk,
          readReg_withOpl]
        rfl

/-- A host write does not depend on `OPL`, and an issue overwrites it. -/
theorem hostWrite_withOpl (o : BitVec 3) (a : Addr) (v : Word) (s : State) :
    (hostWrite a v s).SameButOpl o (hostWrite a v (s.withOpl o)) := by
  cases hr : s.rstN with
  | false => rw [hostWrite_of_reset hr, hostWrite_of_reset (s := s.withOpl o) hr]; exact .inr rfl
  | true =>
    cases hb : s.blk.busy with
    | true => rw [hostWrite_busy hr hb, hostWrite_busy (s := s.withOpl o) hr hb]; exact .inr rfl
    | false =>
      have hidle : s.idle := ⟨hr, hb⟩
      cases ha : regAt s.cfg a with
      | none =>
        rw [hostWrite_idle_unmapped hidle ha, hostWrite_idle_unmapped (s := s.withOpl o) hidle ha]
        exact .inr rfl
      | some r =>
        rw [hostWrite_idle_mapped hidle ha, hostWrite_idle_mapped (s := s.withOpl o) hidle ha, State.withOpl_cfg]
        cases writeLegal s.cfg r v with
        | false => exact .inr rfl
        | true =>
          obtain h | h := writeReg_withOpl o r v s.blk <;> rw [State.withOpl_blk, h]
          · exact .inl rfl
          · exact .inr rfl

/-- Nothing the host can do but an issue depends on `OPL`. -/
theorem hostMove_withOpl (o : BitVec 3) (s : State) : (hostMove s).SameButOpl o (hostMove (s.withOpl o)) := by
  unfold hostMove
  simp only [State.withOpl_program, hostRead_withOpl]
  split
  · exact .inr rfl
  · exact .inr rfl
  · rename_i a v _ _
    obtain h | h := hostWrite_withOpl o a v s <;> rw [h]
    · exact .inl rfl
    · exact .inr rfl
  · have hpoll : pollDone ((hostRead statusAddr s).withOpl o) = pollDone (hostRead statusAddr s) := rfl
    rw [hpoll]
    split <;> exact .inr rfl

/-- The engine and the reset line do not read `OPL` of an idle block. -/
theorem takeTurn_withOpl {s t : State} (o : BitVec 3) {u : Turn} (hidle : s.blk.busy = false)
    (h : takeTurn u s = .next t) : ∃ t', takeTurn u (s.withOpl o) = .next t' ∧ t.SameButOpl o t' := by
  cases u with
  | host =>
    cases h
    exact ⟨_, rfl, hostMove_withOpl o s⟩
  | engine =>
    have hquiet {s' : State} (hb : s'.blk.busy = false) : takeTurn .engine s' = .next s' :=
      if_neg (by rw [hb]; exact Bool.false_ne_true)
    rw [hquiet hidle] at h
    cases h
    exact ⟨_, hquiet (s' := s.withOpl o) hidle, .inr rfl⟩
  | assertReset =>
    cases h
    exact ⟨_, rfl, .inl rfl⟩
  | releaseReset =>
    cases h
    exact ⟨_, rfl, .inr rfl⟩

/-- Settles O49: the step takes the same turn in both states. -/
theorem oplIsNotReadWhileIdle : Obligations.OplIsNotReadWhileIdle := by
  intro s t o hidle hstep
  obtain ⟨t', hstep', hsame⟩ := takeTurn_withOpl (s := s.popTurn) o hidle hstep
  have h : step (s.withOpl o) = .next t' := hstep'
  obtain rfl | rfl := hsame
  · exact .inl h
  · exact .inr h

/-! ### Single facts of the port, the build and reset -/

/-- At the host's turn the step is the host's move. -/
theorem step_of_host {s : State} (h : nextTurn s = .host) : step s = .next (hostMove s.popTurn) := by
  rw [step, h]
  rfl

/-- The write is the host's next access: the step is the write, struck off the program. -/
theorem step_of_hostWrite {s : State} {a : Addr} {v : Word} {rest : List HostOp} (hturn : nextTurn s = .host)
    (hprog : s.program = .wr a v :: rest) :
    step s = .next { hostWrite a v s.popTurn with program := rest } := by
  rw [step_of_host hturn, hostMove, State.popTurn_program, hprog]

/-- Settles O18. -/
theorem idleWritesToStatus : Obligations.IdleWritesToStatus := by
  intro s v rest hturn hidle hprog
  rw [step_of_hostWrite hturn hprog, hostWrite_idle_mapped (s := s.popTurn) hidle (regAt_statusAddr s.cfg)]
  simp only [writeLegal_status, writeReg]
  by_cases h2 : v = 2#32
  · simp [h2, Block.clearHerr]
  · by_cases h0 : v = 0#32
    · simp [h0]
    · simp [h2, h0, Block.setHerr]

/-- Settles O25. -/
theorem buildConstantsNeverChange : Obligations.BuildConstantsNeverChange := fun _ _ hstep => step_cfg hstep

/-- Settles O28. -/
theorem resetZeroesTheBlock : Obligations.ResetZeroesTheBlock := by
  have hbuf (n : Nat) : ∀ x ∈ List.replicate n 0#8, x = 0#8 := fun _ h => List.eq_of_mem_replicate h
  refine ⟨rfl, fun p => ⟨List.length_replicate, hbuf p.nb, fun x hx => ?_, List.length_replicate, hbuf p.nc,
    rfl, rfl, rfl, rfl, rfl, rfl, rfl, rfl, rfl⟩⟩
  simpa [Block.reset] using hx

end Sys2Proof.Machine
end

section
/-! PROOFS. The statements of 20_memory.md: the address map, the host's accesses to the idle and to the busy block,
and a commit that host accesses come before. -/

namespace Sys2Proof.Machine

/-! ### The address map, both ways (R41, R42) -/

/-- The limits R5 sets on the capacities. -/
theorem capacities_le {p : Params} (hp : p.wf = true) : p.nb ≤ 64 ∧ p.nc ≤ 64 := by
  simp only [Params.wf, Params.nbOk, Params.ncOk, Bool.and_eq_true, decide_eq_true_eq] at hp
  obtain ⟨⟨⟨-, hnb⟩, -, hnc⟩, -⟩ := hp
  exact ⟨hnb, hnc⟩

theorem regAt_misaligned {a : Addr} (ha : a.toNat % 4 ≠ 0) (p : Params) : regAt p a = none := if_pos ha

/-- A slot of `BUF` below the capacity stands at its address: no capacity of R5 reaches the next array. -/
theorem regAt_bufAddr {p : Params} (hp : p.wf = true) {i : Nat} (hi : i < p.nb) :
    regAt p (bufAddr i) = some (.buf i) := by
  obtain ⟨hnb, -⟩ := capacities_le hp
  have ha : (bufAddr i).toNat = 0x100 + 4 * i := by
    simp only [bufAddr, BitVec.toNat_ofNat]
    omega
  have hidx : (0x100 + 4 * i - 0x100) / 4 = i := by omega
  rw [regAt, ha, hidx, if_neg (by omega), if_neg (by omega), if_pos (by omega), if_pos hi]

theorem regAt_symAddr (p : Params) (k : Fin 12) : regAt p (symAddr k.val) = some (.sym k) := by
  have ha : (symAddr k.val).toNat = 0x200 + 4 * k.val := by
    simp only [symAddr, BitVec.toNat_ofNat]
    omega
  have hidx : (0x200 + 4 * k.val - 0x200) / 4 = k.val := by omega
  rw [regAt, ha, if_neg (by omega), if_neg (by omega), if_neg (by omega), if_pos (by omega), dif_pos (by omega)]
  simp only [hidx]

@[inherit_doc regAt_bufAddr]
theorem regAt_chrAddr {p : Params} (hp : p.wf = true) {j : Nat} (hj : j < p.nc) :
    regAt p (chrAddr j) = some (.chr j) := by
  obtain ⟨-, hnc⟩ := capacities_le hp
  have ha : (chrAddr j).toNat = 0x300 + 4 * j := by
    simp only [chrAddr, BitVec.toNat_ofNat]
    omega
  have hidx : (0x300 + 4 * j - 0x300) / 4 = j := by omega
  rw [regAt, ha, hidx, if_neg (by omega), if_neg (by omega), if_neg (by omega), if_neg (by omega), if_pos hj]

/-- A register that the build has stands at its address. -/
theorem regAt_addrOf {p : Params} (hp : p.wf = true) {r : Reg} (hr : r.present p = true) :
    regAt p (addrOf r) = some r := by
  cases r with
  | buf i => exact regAt_bufAddr hp (of_decide_eq_true hr)
  | sym k => exact regAt_symAddr p k
  | chr j => exact regAt_chrAddr hp (of_decide_eq_true hr)
  | cmd | status | err | blen | scnt | clen | acc | cnt => rfl

/-- The control registers stand at the first eight words. -/
theorem of_controlRegAt {n : Nat} {r : Reg} (h : controlRegAt n = some r) (p : Params) :
    r.present p = true ∧ addrOf r = BitVec.ofNat 10 (4 * n) := by
  unfold controlRegAt at h
  split at h <;> cases h <;> exact ⟨rfl, rfl⟩

/-- Where the map answers a register, the build has it and the address is its own. -/
theorem of_regAt {p : Params} {a : Addr} {r : Reg} (h : regAt p a = some r) :
    r.present p = true ∧ a = addrOf r := by
  have heq {n : Nat} (hn : n = a.toNat) : a = BitVec.ofNat 10 n := by rw [hn, BitVec.ofNat_toNat, BitVec.setWidth_eq]
  unfold regAt at h
  split_ifs at h with halign hctl hbuf hi hsym hk hj
  · obtain ⟨hpresent, haddr⟩ := of_controlRegAt h p
    exact ⟨hpresent, (heq (by omega)).trans haddr.symm⟩
  · cases h
    exact ⟨decide_eq_true hi, heq (by omega)⟩
  · cases h
    exact ⟨rfl, heq (by simp only; omega)⟩
  · cases h
    exact ⟨decide_eq_true hj, heq (by omega)⟩

/-- Settles O5. -/
theorem addressMapIsExact : Obligations.AddressMapIsExact := by
  intro p a r hp
  refine ⟨of_regAt, ?_⟩
  rintro ⟨hr, rfl⟩
  exact regAt_addrOf hp hr

/-! ### One access of the host as a step -/

/-- The read is the host's next access: the step is the read, struck off the program. -/
theorem step_of_hostRead {s : State} {a : Addr} {rest : List HostOp} (hturn : nextTurn s = .host)
    (hprog : s.program = .rd a :: rest) :
    step s = .next { hostRead a s.popTurn with program := rest } := by
  rw [step_of_host hturn, hostMove, State.popTurn_program, hprog]

theorem step_of_read_mapped {s : State} {a : Addr} {r : Reg} {rest : List HostOp} (hturn : nextTurn s = .host)
    (hidle : s.idle) (hprog : s.program = .rd a :: rest) (ha : regAt s.cfg a = some r) :
    step s = .next { s.popTurn with program := rest, reads := readReg s.blk r :: s.reads } := by
  rw [step_of_hostRead hturn hprog, hostRead_idle_mapped (s := s.popTurn) hidle ha]
  rfl

theorem step_of_read_unmapped {s : State} {a : Addr} {rest : List HostOp} (hturn : nextTurn s = .host)
    (hidle : s.idle) (hprog : s.program = .rd a :: rest) (ha : regAt s.cfg a = none) :
    step s = .next { s.popTurn with
      program := rest, blk := s.blk.setHerr, reads := Config.anyRead s.draws :: s.reads, draws := s.draws + 1 } := by
  rw [step_of_hostRead hturn hprog, hostRead_idle_unmapped (s := s.popTurn) hidle ha]
  rfl

theorem step_of_write_mapped {s : State} {a : Addr} {v : Word} {r : Reg} {rest : List HostOp}
    (hturn : nextTurn s = .host) (hidle : s.idle) (hprog : s.program = .wr a v :: rest)
    (ha : regAt s.cfg a = some r) :
    step s = .next { s.popTurn with
      program := rest, blk := if writeLegal s.cfg r v then writeReg r v s.blk else s.blk.setHerr } := by
  rw [step_of_hostWrite hturn hprog, hostWrite_idle_mapped (s := s.popTurn) hidle ha]
  rfl

theorem step_of_write_unmapped {s : State} {a : Addr} {v : Word} {rest : List HostOp}
    (hturn : nextTurn s = .host) (hidle : s.idle) (hprog : s.program = .wr a v :: rest)
    (ha : regAt s.cfg a = none) :
    step s = .next { s.popTurn with program := rest, blk := s.blk.setHerr } := by
  rw [step_of_hostWrite hturn hprog, hostWrite_idle_unmapped (s := s.popTurn) hidle ha]
  rfl

/-- Settles O6. -/
theorem misalignedIsUnmapped : Obligations.MisalignedIsUnmapped := by
  intro s a rest halign
  have ha := regAt_misaligned halign s.cfg
  exact ⟨ha, fun hturn hidle => ⟨fun _ hprog => step_of_write_unmapped hturn hidle hprog ha,
    fun hprog => ⟨_, _, step_of_read_unmapped hturn hidle hprog ha⟩⟩⟩

/-! ### What a read returns (R44, R48, R140) -/

theorem statusWord_toNat (b : Block) : (statusWord b).toNat = 2 * b.herr.toNat + b.busy.toNat := by
  unfold statusWord
  cases b.herr <;> cases b.busy <;> rfl

theorem statusWord_of_busy {b : Block} (hb : b.busy = true) : statusWord b = if b.herr then 3#32 else 1#32 := by
  unfold statusWord
  rw [hb]
  cases b.herr <;> rfl

theorem readReg_buf_toNat {b : Block} {i : Nat} (h : i < b.buf.length) :
    (readReg b (.buf i)).toNat = b.buf[i].toNat := by
  rw [readReg, List.getD_eq_getElem _ _ h, BitVec.toNat_setWidth_of_le (by decide)]

theorem readReg_chr_toNat {b : Block} {j : Nat} (h : j < b.chr.length) :
    (readReg b (.chr j)).toNat = b.chr[j].toNat := by
  rw [readReg, List.getD_eq_getElem _ _ h, BitVec.toNat_setWidth_of_le (by decide)]

/-- Settles O13. -/
theorem idleReadReturnsTheRegister : Obligations.IdleReadReturnsTheRegister := by
  refine ⟨fun s a rest hturn hidle hprog => ⟨fun ha => ⟨_, _, step_of_read_unmapped hturn hidle hprog ha⟩,
    fun r ha => step_of_read_mapped hturn hidle hprog ha⟩, fun b => ?_⟩
  have hext {w : Nat} (hw : w ≤ 32) (x : BitVec w) : (x.setWidth 32).toNat = x.toNat := BitVec.toNat_setWidth_of_le hw
  exact ⟨rfl, statusWord_toNat b, hext (by decide) b.err, hext (by decide) b.blen, hext (by decide) b.scnt,
    hext (by decide) b.clen, hext (by decide) b.acc, hext (by decide) b.cnt, fun _ => readReg_buf_toNat,
    fun k => hext (by decide) b.sym[k.val], fun _ => readReg_chr_toNat⟩

/-- Settles O14. -/
theorem busyAccessesTouchHerrOnly : Obligations.BusyAccessesTouchHerrOnly := by
  intro s rest hturn hr hb
  refine ⟨fun hprog => ?_, fun a ha hprog => ⟨Config.anyRead s.draws, s.draws + 1, ?_⟩, fun a v hprog => ?_⟩
  · rw [step_of_hostRead hturn hprog, hostRead_busy_status (s := s.popTurn) hr hb, State.popTurn_blk,
      statusWord_of_busy hb]
    rfl
  · rw [step_of_hostRead hturn hprog, hostRead_busy_other (s := s.popTurn) hr hb ha]
    rfl
  · rw [step_of_hostWrite hturn hprog, hostWrite_busy (s := s.popTurn) hr hb]
    rfl

/-- A read whose value the spec leaves open (S1 to S3) is a draw, marked or not. -/
theorem hostRead_open {s : State} {a : Addr}
    (h : s.rstN = false ∨ (s.blk.busy = true ∧ a ≠ statusAddr) ∨ (s.blk.busy = false ∧ regAt s.cfg a = none)) :
    hostRead a s = s.gotAnyRead ∨ hostRead a s = s.gotAnyRead.markHerr := by
  cases hr : s.rstN with
  | false => exact .inl (hostRead_of_reset hr a)
  | true =>
    obtain hreset | ⟨hb, ha⟩ | ⟨hb, ha⟩ := h
    · exact absurd (hr.symm.trans hreset) (by decide)
    · exact .inr (hostRead_busy_other hr hb ha)
    · exact .inr (hostRead_idle_unmapped ⟨hr, hb⟩ ha)

/-- Settles O15. -/
theorem openReadsDrawFreshValues : Obligations.OpenReadsDrawFreshValues := by
  intro s a rest hturn hprog hopen
  refine ⟨_, step_of_hostRead hturn hprog, ?_⟩
  obtain h | h := hostRead_open (s := s.popTurn) hopen <;> rw [h] <;> exact ⟨rfl, rfl⟩

/-! ### Which writes are legal (R45) -/

theorem ushiftRight_eq_zero_iff (v : Word) (n : Nat) : v >>> n = 0#32 ↔ v.toNat < 2 ^ n := by
  rw [← BitVec.toNat_inj, BitVec.toNat_ushiftRight, Nat.shiftRight_eq_div_pow, BitVec.toNat_zero,
    Nat.div_eq_zero_iff_lt (Nat.two_pow_pos n)]

/-- The three conditions of R45, the middle one as a bound. -/
theorem writeLegal_iff (p : Params) (r : Reg) (v : Word) :
    writeLegal p r v = true ↔ readOnly r = false ∧ v.toNat < 2 ^ validBits r ∧ valueOk p v r = true := by
  simp only [writeLegal, Bool.and_eq_true, Bool.not_eq_true', beq_iff_eq, ushiftRight_eq_zero_iff, and_assoc]

theorem writeLegal_buf (p : Params) (i : Nat) (v : Word) : writeLegal p (.buf i) v = true ↔ v.toNat < 256 := by
  simp [writeLegal_iff, readOnly, validBits, valueOk]

theorem writeLegal_sym (p : Params) (k : Fin 12) (v : Word) : writeLegal p (.sym k) v = true ↔ v.toNat < 2048 := by
  simp [writeLegal_iff, readOnly, validBits, valueOk]

theorem writeLegal_chr (p : Params) (j : Nat) (v : Word) : writeLegal p (.chr j) v = true ↔ v.toNat < 256 := by
  simp [writeLegal_iff, readOnly, validBits, valueOk]

/-- Below a capacity of R5 the bound of the 7 bits says nothing more. -/
theorem writeLegal_blen {p : Params} (hp : p.wf = true) (v : Word) :
    writeLegal p .blen v = true ↔ v.toNat ≤ p.nb := by
  obtain ⟨hnb, -⟩ := capacities_le hp
  simp only [writeLegal_iff, readOnly, validBits, valueOk, decide_eq_true_eq, true_and]
  omega

theorem writeLegal_scnt (p : Params) (v : Word) : writeLegal p .scnt v = true ↔ v.toNat ≤ 15 := by
  simp only [writeLegal_iff, readOnly, validBits, valueOk, and_true, true_and]
  omega

@[inherit_doc writeLegal_blen]
theorem writeLegal_clen {p : Params} (hp : p.wf = true) (v : Word) :
    writeLegal p .clen v = true ↔ v.toNat ≤ p.nc := by
  obtain ⟨-, hnc⟩ := capacities_le hp
  simp only [writeLegal_iff, readOnly, validBits, valueOk, decide_eq_true_eq, true_and]
  omega

theorem writeLegal_of_readOnly {r : Reg} (hr : readOnly r = true) (p : Params) (v : Word) :
    writeLegal p r v = false := by
  rw [writeLegal, hr]
  rfl

/-! ### Writes to the idle block (R45 to R47) -/

/-- Settles O16. -/
theorem idleWritesToBuffers : Obligations.IdleWritesToBuffers := by
  intro s v rest hturn hidle hp
  refine ⟨fun i hi hprog => ?_, fun k hk hprog => ?_, fun j hj hprog => ?_⟩
  · simp only [step_of_write_mapped hturn hidle hprog (regAt_bufAddr hp hi), writeLegal_buf]
    rfl
  · simp only [step_of_write_mapped hturn hidle hprog (regAt_symAddr s.cfg ⟨k, hk⟩), writeLegal_sym]
    rfl
  · simp only [step_of_write_mapped hturn hidle hprog (regAt_chrAddr hp hj), writeLegal_chr]
    rfl

/-- Settles O17. -/
theorem idleWritesToLengths : Obligations.IdleWritesToLengths := by
  intro s v rest hturn hidle hp
  refine ⟨fun hprog => ?_, fun hprog => ?_, fun hprog => ?_⟩
  · simp only [step_of_write_mapped (r := .blen) hturn hidle hprog rfl, writeLegal_blen hp]
    rfl
  · simp only [step_of_write_mapped (r := .scnt) hturn hidle hprog rfl, writeLegal_scnt]
    rfl
  · simp only [step_of_write_mapped (r := .clen) hturn hidle hprog rfl, writeLegal_clen hp]
    rfl

/-- A write to a read-only register is dropped and marked (R45). -/
theorem step_of_write_readOnly {s : State} {a : Addr} {v : Word} {r : Reg} {rest : List HostOp}
    (hturn : nextTurn s = .host) (hidle : s.idle) (hprog : s.program = .wr a v :: rest)
    (ha : regAt s.cfg a = some r) (hr : readOnly r = true) :
    step s = .next { s.popTurn with program := rest, blk := s.blk.setHerr } := by
  rw [step_of_write_mapped hturn hidle hprog ha, writeLegal_of_readOnly hr]
  rfl

/-- Settles O19. -/
theorem idleWritesThatAreDropped : Obligations.IdleWritesThatAreDropped := by
  intro s a v rest hturn hidle hprog ha
  obtain ha | rfl | rfl | rfl := ha
  · exact step_of_write_unmapped hturn hidle hprog ha
  · exact step_of_write_readOnly (r := .err) hturn hidle hprog rfl rfl
  · exact step_of_write_readOnly (r := .acc) hturn hidle hprog rfl rfl
  · exact step_of_write_readOnly (r := .cnt) hturn hidle hprog rfl rfl

/-! ### A read after a write (R49) -/

/-- A value that fits in the register's bits comes back whole: the legal write truncates nothing (R45, R46). -/
theorem setWidth_setWidth_of_toNat_lt {v : Word} {w : Nat} (hw : w ≤ 32) (h : v.toNat < 2 ^ w) :
    (v.setWidth w).setWidth 32 = v := by
  apply BitVec.eq_of_toNat_eq
  rw [BitVec.toNat_setWidth_of_le hw, BitVec.toNat_setWidth, Nat.mod_eq_of_lt h]

theorem readReg_writeReg_same {p : Params} {r : Reg} {v : Word} {b : Block} (hb : b.fits p)
    (hr : r.present p = true) (hcmd : r ≠ .cmd) (hstatus : r ≠ .status) (hl : writeLegal p r v = true) :
    readReg (writeReg r v b) r = v := by
  obtain ⟨hbuf, hchr, -, -⟩ := hb
  obtain ⟨hro, hfit, -⟩ := (writeLegal_iff p r v).mp hl
  cases r with
  | cmd => exact absurd rfl hcmd
  | status => exact absurd rfl hstatus
  | err | acc | cnt => cases hro
  | blen | scnt | clen => exact setWidth_setWidth_of_toNat_lt (by decide) hfit
  | buf i =>
    have hi : i < b.buf.length := hbuf ▸ of_decide_eq_true hr
    simpa [readReg, writeReg, hi] using setWidth_setWidth_of_toNat_lt (w := 8) (by decide) hfit
  | sym k => simpa [readReg, writeReg] using setWidth_setWidth_of_toNat_lt (w := 11) (by decide) hfit
  | chr j =>
    have hj : j < b.chr.length := hchr ▸ of_decide_eq_true hr
    simpa [readReg, writeReg, hj] using setWidth_setWidth_of_toNat_lt (w := 8) (by decide) hfit

/-- A write of a data or length register reaches no other register, not even another slot of the same buffer. -/
theorem readReg_writeReg_of_ne {r r' : Reg} (hne : r' ≠ r) (hcmd : r ≠ .cmd) (hstatus : r ≠ .status) (v : Word)
    (b : Block) : readReg (writeReg r v b) r' = readReg b r' := by
  cases r with
  | cmd => exact absurd rfl hcmd
  | status => exact absurd rfl hstatus
  | err | acc | cnt => rfl
  | blen =>
    cases r' with
    | blen => exact absurd rfl hne
    | _ => rfl
  | scnt =>
    cases r' with
    | scnt => exact absurd rfl hne
    | _ => rfl
  | clen =>
    cases r' with
    | clen => exact absurd rfl hne
    | _ => rfl
  | buf i =>
    cases r' with
    | buf j =>
      have hij : i ≠ j := fun h => hne (h ▸ rfl)
      simp [readReg, writeReg, List.getD_eq_getElem?_getD, List.getElem?_set_ne hij]
    | _ => rfl
  | sym k =>
    cases r' with
    | sym l =>
      have hkl : k.val ≠ l.val := fun h => hne (Fin.ext h ▸ rfl)
      simp only [readReg, writeReg, Vector.getElem_set_ne k.isLt l.isLt hkl]
    | _ => rfl
  | chr i =>
    cases r' with
    | chr j =>
      have hij : i ≠ j := fun h => hne (h ▸ rfl)
      simp [readReg, writeReg, List.getD_eq_getElem?_getD, List.getElem?_set_ne hij]
    | _ => rfl

/-- Only a write of `STATUS` reaches `HERR` (R127). -/
theorem writeReg_herr {r : Reg} (hr : r ≠ .status) (v : Word) (b : Block) : (writeReg r v b).herr = b.herr := by
  cases r with
  | status => exact absurd rfl hr
  | cmd => obtain ⟨i, -, h⟩ | ⟨-, h⟩ := command_cases v b <;> rw [writeReg, h]
  | _ => rfl

/-- A run of `k + 1` steps makes its first step, then runs on for `k`. -/
theorem runFor_succ {s t : State} (h : step s = .next t) (k : Nat) : runFor (k + 1) s = runFor k t := by
  have hcore : Sys2Proof.core.step s = .next t := h
  simp only [runFor, Host.Core.run, hcore]
  rfl

theorem nextTurn_of_idle {s : State} (hidle : s.idle) (hturns : s.turns = []) : nextTurn s = .host := by
  simp [nextTurn, hturns, hidle.2]

/-- Settles O20: the write leaves the block idle with the host to move, and the read then sees the written block. -/
theorem readAfterWriteReturnsTheValue : Obligations.ReadAfterWriteReturnsTheValue := by
  rintro s r r' v rest ⟨hp, hfits⟩ hidle hturns hr hr' hcmd hstatus hl hprog
  have hwrite := step_of_write_mapped (nextTurn_of_idle hidle hturns) hidle hprog (regAt_addrOf hp hr)
  rw [if_pos hl] at hwrite
  obtain ⟨hbusy, -, -⟩ := writeReg_of_ne_cmd hcmd v s.blk
  have hidle' : State.idle { s.popTurn with program := .rd (addrOf r') :: rest, blk := writeReg r v s.blk } :=
    ⟨hidle.1, hbusy.trans hidle.2⟩
  have hread := step_of_read_mapped (nextTurn_of_idle hidle' (by simp [hturns])) hidle' rfl (regAt_addrOf hp hr')
  refine ⟨_, (runFor_succ hwrite 1).trans (runFor_succ hread 0), rfl, writeReg_herr hstatus v s.blk, ?_⟩
  by_cases h : r' = r
  · subst h
    simp [readReg_writeReg_same hfits hr hcmd hstatus hl]
  · simp [h, readReg_writeReg_of_ne h hcmd hstatus v s.blk]

/-! ### The commit after host accesses (R48, R51) -/

@[simp] theorem hostWrite_turns (a : Addr) (v : Word) (s : State) : (hostWrite a v s).turns = s.turns := by
  obtain ⟨-, h⟩ | ⟨-, h⟩ | ⟨-, -, r, -, -, h⟩ := hostWrite_cases a v s <;> rw [h]
  rfl

@[simp] theorem hostMove_turns (s : State) : (hostMove s).turns = s.turns := by
  obtain ⟨-, h⟩ | ⟨a, rest, -, h⟩ | ⟨a, v, rest, -, h⟩ | ⟨rest, -, ⟨-, h⟩ | ⟨-, h⟩⟩ := hostMove_cases s <;>
    simp [h]

/-- The block with another value in `HERR`. -/
def Block.withHerr (herr : Bool) (b : Block) : Block := { b with herr := herr }

/-- While `BUSY` is set the host can change nothing of the block but `HERR` (R48). -/
theorem hostMove_blk_of_busy {s : State} (hb : s.blk.busy = true) :
    ∃ herr, (hostMove s).blk = s.blk.withHerr herr := by
  obtain h | ⟨-, h⟩ | ⟨hidle, -⟩ := hostMove_blk_cases s
  · exact ⟨s.blk.herr, h⟩
  · exact ⟨true, h⟩
  · exact absurd (hidle.2.symm.trans hb) Bool.false_ne_true

/-- No commit reads `HERR`, and none writes it (R27, R62). -/
theorem commitOf_withHerr (p : Params) (b : Block) (i : Instr) (herr : Bool) :
    commitOf p (b.withHerr herr) i = (commitOf p b i).withHerr herr := by
  cases i with
  | mnenc =>
    rw [commitOf, commitOf, mnencCommit, mnencCommit, apply_ite (Block.withHerr herr)]
    rfl
  | mndec =>
    rw [commitOf, commitOf, mndecCommit, mndecCommit, apply_ite (Block.withHerr herr), apply_ite (Block.withHerr herr)]
    rfl
  | b58enc =>
    rw [commitOf, commitOf, b58encCommit, b58encCommit, apply_ite (Block.withHerr herr)]
    rfl
  | b58dec =>
    have htext : validChars (b.withHerr herr) = validChars b := rfl
    rw [commitOf, commitOf, b58decCommit, b58decCommit, htext]
    cases base58Bytes p (validChars b) with
    | none => rfl
    | some bs =>
      simp only [apply_ite (Block.withHerr herr)]
      rfl

/-- At the engine's turn a started operation commits (R62). -/
theorem step_of_engine {s : State} {i : Instr} (hturn : nextTurn s = .engine) (hb : s.blk.busy = true)
    (hi : latchedInstr s.blk.opl = some i) :
    step s = .next { s.popTurn with blk := commitOf s.cfg s.blk i } := by
  simp [step, hturn, takeTurn, engineTurn, hb, hi, exec_eq]

theorem nextTurn_of_turns {s : State} {u : Turn} {us : List Turn} (h : s.turns = u :: us) : nextTurn s = u := by
  rw [nextTurn, h]

/-- After `n` turns of the host the engine commits what it would have committed before them, `HERR` apart: each turn
leaves the operation latched and its operands as they were. -/
theorem runFor_host_turns_then_commit {s : State} {i : Instr} {n : Nat} {ts : List Turn} (hb : s.blk.busy = true)
    (hi : latchedInstr s.blk.opl = some i) (hturns : s.turns = List.replicate n .host ++ .engine :: ts) :
    ∃ t, runFor (n + 1) s = .next t ∧ t.turns = ts ∧ t.blk = (commitOf s.cfg s.blk i).withHerr t.blk.herr := by
  induction n generalizing s with
  | zero =>
    have hstep := step_of_engine (nextTurn_of_turns hturns) hb hi
    exact ⟨_, runFor_succ hstep 0, congrArg List.tail hturns, rfl⟩
  | succ n ih =>
    have hstep := step_of_host (nextTurn_of_turns hturns)
    have hturns' : (hostMove s.popTurn).turns = List.replicate n .host ++ .engine :: ts :=
      (hostMove_turns s.popTurn).trans (congrArg List.tail hturns)
    have hcfg : (hostMove s.popTurn).cfg = s.cfg := hostMove_cfg s.popTurn
    obtain ⟨herr, hblk⟩ := hostMove_blk_of_busy (s := s.popTurn) hb
    obtain ⟨t, hrun, ht, htblk⟩ := ih (by rwa [hblk]) (by rwa [hblk]) hturns'
    rw [hblk, hcfg, commitOf_withHerr] at htblk
    exact ⟨t, (runFor_succ hstep (n + 1)).trans hrun, ht, htblk⟩

/-- Settles O53: `exec` at the start is the commit of the block as the issue left it. -/
theorem operandsAreThoseAtIssue : Obligations.OperandsAreThoseAtIssue := by
  intro s u i n ts _ hb hi hturns hexec
  rw [exec_eq, step_next_eq] at hexec
  subst hexec
  exact runFor_host_turns_then_commit hb hi hturns

end Sys2Proof.Machine
end

section
/-! PROOFS. The statements of 30_encoding.md about command words and the alphabet, and about single steps: the issue,
the commit and `WAIT`. -/

namespace Sys2Proof.Machine

/-! ### Command words (R60 to R62, R64) -/

/-- The decoder reads back the word of every command. -/
@[simp] theorem decode_encode (i : Instr) : decode (encode i) = .ok i := by
  cases i <;> rfl

theorem decode_eq_ok_iff (w : Word) (i : Instr) : decode w = .ok i ↔ w = encode i := by
  refine ⟨eq_encode_of_decode, ?_⟩
  rintro rfl
  exact decode_encode i

/-- A word with a bit above the opcode is refused by that name, whatever its opcode (R60). -/
theorem decode_of_upperField {w : Word} (h : 256 ≤ w.toNat) : decode w = .error .upperField :=
  if_pos (by omega)

/-- A word with a zero upper field and none of the four opcodes is refused by its opcode (R61). -/
theorem decode_of_undefinedOpcode {w : Word} (hupper : w.toNat < 256) (hopcode : w.toNat = 0 ∨ 5 ≤ w.toNat) :
    decode w = .error .undefinedOpcode := by
  rw [decode, if_neg (by omega), if_neg (by omega), if_neg (by omega), if_neg (by omega), if_neg (by omega)]

/-- Settles O3. -/
theorem decodeAndEncodeAgree : Obligations.DecodeAndEncodeAgree := fun i w _ => decode_eq_ok_iff w i

/-- Settles O1: the four words are the encodings of the four commands. -/
theorem commandWordsAreExact : Obligations.CommandWordsAreExact := fun w =>
  ⟨decode_eq_ok_iff w .mnenc, decode_eq_ok_iff w .mndec, decode_eq_ok_iff w .b58enc, decode_eq_ok_iff w .b58dec⟩

/-- Settles O2. -/
theorem writtenOutWordsDecode : Obligations.WrittenOutWordsDecode :=
  ⟨decode_encode .mnenc, decode_encode .mndec, decode_encode .b58enc, decode_encode .b58dec,
    decode_of_upperField (by decide), decode_of_undefinedOpcode (by decide) (by decide)⟩

/-- The latch selects the command that its three bits decode to, extended with zero bits (R62). -/
theorem latchedInstr_eq_some_iff (o : BitVec 3) (i : Instr) :
    latchedInstr o = some i ↔ decode (o.setWidth 32) = .ok i := by
  unfold latchedInstr
  cases decode (o.setWidth 32) <;> simp [Except.toOption]

/-- Extending the latched bits with zero bits loses none of them. -/
theorem latchOf_setWidth (o : BitVec 3) : latchOf (o.setWidth 32) = o := by
  simp [latchOf]

/-- Settles O4: three bits that select `i` extend to the word of `i`, and are the low bits of it. -/
theorem latchSelectsTheIssuedOperation : Obligations.LatchSelectsTheIssuedOperation := by
  refine ⟨fun w i => latchedInstr_latchOf, fun o i h => ?_⟩
  rw [← eq_encode_of_decode ((latchedInstr_eq_some_iff o i).mp h), latchOf_setWidth]

/-! ### The alphabet (R69, R70) -/

theorem alphabet_nodup {p : Params} (hp : p.wf = true) : p.alphabet.toList.Nodup := by
  simp only [Params.wf, Params.alphabetOk, Bool.and_eq_true, decide_eq_true_eq] at hp
  obtain ⟨-, hnodup⟩ := hp
  exact hnodup

/-- A character is the character of one digit at most (R69). -/
theorem digit_unique {p : Params} (hp : p.wf = true) {d e : Nat} (hd : d < 58) (he : e < 58)
    (h : p.alphabet[d] = p.alphabet[e]) : d = e := by
  rw [← Vector.getElem_toList (by simpa using hd), ← Vector.getElem_toList (by simpa using he)] at h
  exact (alphabet_nodup hp).getElem_inj_iff.mp h

/-- A digit value is a digit, and its character is the one asked for (R70). -/
theorem getElem_of_digitValue {p : Params} {c : Byte} {d : Nat} (h : digitValue p c = some d) :
    ∃ hd : d < 58, p.alphabet[d] = c := by
  obtain ⟨e, he, rfl⟩ := Option.map_eq_some_iff.mp h
  exact ⟨e.isLt, beq_iff_eq.mp (List.find?_some (p := fun d : Fin 58 => p.alphabet[d.val] == c) he)⟩

/-- Only a character outside the alphabet has no digit value (R70). -/
theorem digitValue_eq_none_iff (p : Params) (c : Byte) : digitValue p c = none ↔ c ∉ p.alphabet.toList := by
  rw [digitValue, Option.map_eq_none_iff, List.find?_eq_none, Vector.mem_toList_iff, Vector.mem_iff_getElem]
  constructor
  · rintro h ⟨d, hd, hc⟩
    exact h ⟨d, hd⟩ (List.mem_finRange _) (beq_iff_eq.mpr hc)
  · intro h d _ hc
    exact h ⟨d.val, d.isLt, beq_iff_eq.mp hc⟩

theorem digitValue_eq_some_iff {p : Params} (hp : p.wf = true) (c : Byte) {d : Nat} (hd : d < 58) :
    digitValue p c = some d ↔ p.alphabet[d] = c := by
  constructor
  · intro h
    obtain ⟨_, hc⟩ := getElem_of_digitValue h
    exact hc
  · intro hc
    cases h : digitValue p c with
    | none =>
      have hmem : c ∈ p.alphabet.toList := by rw [← hc]; exact Vector.mem_toList_iff.mpr (Vector.getElem_mem hd)
      exact absurd hmem ((digitValue_eq_none_iff p c).mp h)
    | some e =>
      obtain ⟨he, hce⟩ := getElem_of_digitValue h
      rw [digit_unique hp he hd (hce.trans hc.symm)]

/-- Settles O7. -/
theorem digitValueIsTheUniqueDigit : Obligations.DigitValueIsTheUniqueDigit := by
  intro p c hp
  refine ⟨fun d hd => digitValue_eq_some_iff hp c hd, digitValue_eq_none_iff p c, fun d h => ?_⟩
  obtain ⟨hd, -⟩ := getElem_of_digitValue h
  exact hd

theorem defaultParams_wf : defaultParams.wf = true := by decide

/-- Settles O8: the codes are distinct because the default parameters are legal; the rest is read off the table. -/
theorem defaultAlphabetIsLegal : Obligations.DefaultAlphabetIsLegal :=
  ⟨alphabet_nodup defaultParams_wf, by decide, rfl, by decide, by decide, by decide, by decide⟩

/-! ### The issue and the commit as steps (R62, R64) -/

/-- At the engine's turn with a started operation the step is `exec` of it (R62). -/
theorem step_eq_exec {s : State} {i : Instr} (hturn : nextTurn s = .engine) (hb : s.blk.busy = true)
    (hi : latchedInstr s.blk.opl = some i) : step s = exec i s.popTurn := by
  simp [step, hturn, takeTurn, engineTurn, hb, hi]

/-- An idle block has no commit to make (R27). -/
theorem step_of_engine_idle {s : State} (hturn : nextTurn s = .engine) (hb : s.blk.busy = false) :
    step s = .next s.popTurn := by
  simp [step, hturn, takeTurn, engineTurn, hb]

/-- Settles O9. -/
theorem stepRunsTheLatchedInstruction : Obligations.StepRunsTheLatchedInstruction := fun _ hturn =>
  ⟨fun hb _ hi => step_eq_exec hturn hb hi, step_of_engine_idle hturn⟩

/-- Every word may be written to `CMD` of an idle block (R45, R64). -/
theorem writeLegal_cmd (p : Params) (w : Word) : writeLegal p .cmd w = true :=
  (writeLegal_iff p .cmd w).mpr ⟨rfl, w.isLt, rfl⟩

/-- The host's write to `CMD` of an idle block is an issue or IllegalCommand (R62, R64). -/
theorem step_of_write_cmd {s : State} {w : Word} {rest : List HostOp} (hturn : nextTurn s = .host) (hidle : s.idle)
    (hprog : s.program = .wr cmdAddr w :: rest) :
    step s = .next { s.popTurn with program := rest, blk := s.blk.command w } := by
  rw [step_of_write_mapped (r := .cmd) hturn hidle hprog rfl, if_pos (writeLegal_cmd s.cfg w)]
  rfl

theorem command_of_decode {w : Word} {i : Instr} (h : decode w = .ok i) (b : Block) :
    b.command w = { b with opl := latchOf w, busy := true } := by
  rw [Block.command, h]

/-- Settles O10. -/
theorem commandWriteIssues : Obligations.CommandWriteIssues := by
  intro s w i rest hturn hidle hprog hw
  rw [step_of_write_cmd hturn hidle hprog, command_of_decode hw]

/-- The four command words are all there are. -/
theorem decode_ne_ok {w : Word} (hw : w ≠ 1#32 ∧ w ≠ 2#32 ∧ w ≠ 3#32 ∧ w ≠ 4#32) (i : Instr) :
    decode w ≠ .ok i := by
  obtain ⟨h1, h2, h3, h4⟩ := hw
  rw [Ne, decode_eq_ok_iff]
  cases i with
  | mnenc => exact h1
  | mndec => exact h2
  | b58enc => exact h3
  | b58dec => exact h4

/-- Settles O11. -/
theorem illegalCommandWritesErrOnly : Obligations.IllegalCommandWritesErrOnly := by
  intro s w rest hturn hr hprog
  refine ⟨fun hb hw => ?_, fun hb => ?_⟩
  · rw [step_of_write_cmd hturn ⟨hr, hb⟩ hprog]
    obtain ⟨i, hi, -⟩ | ⟨-, h⟩ := command_cases w s.blk
    · exact absurd hi (decode_ne_ok hw i)
    · rw [h]
  · rw [step_of_hostWrite hturn hprog, hostWrite_busy (s := s.popTurn) hr hb]
    rfl

/-- A command that stands as its issue leaves it has the engine to move (log entry 6). -/
theorem nextTurn_issued (w : Word) (s : State) : nextTurn (s.issued w) = .engine := by
  cases h : s.turns <;> simp [nextTurn, h]

/-- The turn that the placing adds is the turn that the step takes. -/
theorem popTurn_issued (w : Word) (s : State) :
    (s.issued w).popTurn = { s with blk := { s.blk with opl := latchOf w, busy := true } } := by
  have hturns : (s.issued w).popTurn.turns = s.turns := by cases h : s.turns <;> simp [h]
  calc (s.issued w).popTurn
      = { s with
          blk := { s.blk with opl := latchOf w, busy := true }
          turns := (s.issued w).popTurn.turns } := rfl
    _ = { s with blk := { s.blk with opl := latchOf w, busy := true } } := by rw [hturns]

/-- A word placed through its number is placed as it is. -/
theorem withFetchWord_toNat (s : State) (w : Word) : s.withFetchWord 32 w.toNat = placeCommand w s := by
  rw [State.withFetchWord, Nat.mod_eq_of_lt w.isLt, BitVec.ofNat_toNat, BitVec.setWidth_eq]

/-- Settles O12. -/
theorem placedCommandRunsNext : Obligations.PlacedCommandRunsNext := by
  intro s w i hw
  rw [withFetchWord_toNat, placeCommand, hw, ← popTurn_issued]
  exact step_eq_exec (nextTurn_issued w s) rfl (latchedInstr_latchOf hw)

/-! ### `WAIT` (R67) -/

/-- `STATUS` may be read at any time, and its value is the flags' (R48). -/
theorem hostRead_status {s : State} (hr : s.rstN = true) :
    hostRead statusAddr s = s.gotRead (statusWord s.blk) := by
  cases hb : s.blk.busy with
  | true => exact hostRead_busy_status hr hb
  | false => exact hostRead_idle_mapped ⟨hr, hb⟩ (regAt_statusAddr s.cfg)

/-- Bit 0 of `STATUS` is `BUSY`, so the poll is over exactly when the block is idle (R18, R67). -/
theorem pollDone_gotRead_statusWord (s : State) : pollDone (s.gotRead (statusWord s.blk)) = !s.blk.busy := by
  simp only [pollDone, State.gotRead_reads, statusWord]
  cases s.blk.herr <;> cases s.blk.busy <;> rfl

theorem statusWord_of_idle {b : Block} (hb : b.busy = false) : statusWord b = if b.herr then 2#32 else 0#32 := by
  unfold statusWord
  rw [hb]
  cases b.herr <;> rfl

/-- `WAIT` reads `STATUS`, and stays the next access while `BUSY` is set (R67). -/
theorem hostMove_of_wait {s : State} {rest : List HostOp} (hr : s.rstN = true) (hprog : s.program = .wait :: rest) :
    hostMove s =
      if s.blk.busy then s.gotRead (statusWord s.blk)
      else { s.gotRead (statusWord s.blk) with program := rest } := by
  rw [hostMove, hprog]
  simp only [hostRead_status hr, pollDone_gotRead_statusWord]
  cases s.blk.busy <;> rfl

theorem step_of_wait_idle {s : State} {rest : List HostOp} (hturn : nextTurn s = .host) (hidle : s.idle)
    (hprog : s.program = .wait :: rest) :
    step s = .next { s.popTurn with program := rest, reads := statusWord s.blk :: s.reads } := by
  rw [step_of_host hturn, hostMove_of_wait (s := s.popTurn) hidle.1 hprog, State.popTurn_blk, hidle.2]
  rfl

theorem step_of_wait_busy {s : State} {rest : List HostOp} (hturn : nextTurn s = .host) (hr : s.rstN = true)
    (hb : s.blk.busy = true) (hprog : s.program = .wait :: rest) :
    step s = .next { s.popTurn with reads := statusWord s.blk :: s.reads } := by
  rw [step_of_host hturn, hostMove_of_wait (s := s.popTurn) hr hprog, State.popTurn_blk, hb]
  rfl

/-- Settles O26. -/
theorem waitReadsStatusUntilIdle : Obligations.WaitReadsStatusUntilIdle := by
  intro s rest hturn hr hprog
  refine ⟨fun hb => ?_, fun hb => ?_⟩
  · rw [step_of_wait_idle hturn ⟨hr, hb⟩ hprog, statusWord_of_idle hb]
  · rw [step_of_wait_busy hturn hr hb hprog, statusWord_of_busy hb]

end Sys2Proof.Machine
end

section
/-! PROOFS. The statement of 30_encoding.md about a command and its `WAIT`, whatever the latency. -/

namespace Sys2Proof.Machine

/-! ### A command and its `WAIT`, whatever the latency (R67, R147, R149) -/

/-- Within `n` steps the host is left with the accesses `rest`, and the block is then `b`. -/
def State.Reaches (n : Nat) (rest : List HostOp) (b : Block) (s : State) : Prop :=
  ∃ k t, k ≤ n ∧ runFor k s = .next t ∧ t.program = rest ∧ t.blk = b

theorem reaches_of_last_step {s t : State} (n : Nat) (hstep : step s = .next t) :
    s.Reaches (n + 1) t.program t.blk :=
  ⟨1, t, by omega, runFor_succ hstep 0, rfl, rfl⟩

theorem reaches_of_step {s t : State} {m n : Nat} {rest : List HostOp} {b : Block} (hstep : step s = .next t)
    (h : t.Reaches m rest b) (hmn : m < n) : s.Reaches n rest b := by
  obtain ⟨k, u, hk, hrun, hrest, hblk⟩ := h
  exact ⟨k + 1, u, by omega, (runFor_succ hstep k).trans hrun, hrest, hblk⟩

/-- The state with another list of turns. -/
def State.withTurns (ts : List Turn) (s : State) : State := { s with turns := ts }

/-- At a turn of the engine an idle block has nothing to commit. -/
theorem step_withTurns_engine {s : State} (hidle : s.idle) (ts : List Turn) :
    step (s.withTurns (.engine :: ts)) = .next (s.withTurns ts) :=
  step_of_engine_idle (s := s.withTurns (.engine :: ts)) rfl hidle.2

/-- A release of the reset line changes nothing where no reset is held. -/
theorem step_withTurns_releaseReset {s : State} (hr : s.rstN = true) (ts : List Turn) :
    step (s.withTurns (.releaseReset :: ts)) = .next (s.withTurns ts) := by
  have hstep : step (s.withTurns (.releaseReset :: ts)) = .next { s.withTurns ts with rstN := true } := rfl
  rw [hstep, ← hr]
  rfl

/-- From an idle block it is enough to follow the host's next turn: the turns before it change nothing. -/
theorem reaches_of_host_turn {s : State} {n : Nat} {rest : List HostOp} {b : Block} (hidle : s.idle)
    (hhost : ∀ ts, .assertReset ∉ ts → nextTurn (s.withTurns ts) = .host →
      (s.withTurns ts).Reaches (ts.length + n) rest b) (ts : List Turn) (hno : .assertReset ∉ ts) :
    (s.withTurns ts).Reaches (ts.length + n) rest b := by
  induction ts with
  | nil => exact hhost [] hno (nextTurn_of_idle (s := s.withTurns []) hidle rfl)
  | cons u ts ih =>
    obtain ⟨hu, hts⟩ := not_or.mp (mt List.mem_cons.mpr hno)
    have hshorter : ts.length + n < (u :: ts).length + n := by rw [List.length_cons]; omega
    cases u with
    | host => exact hhost _ hno rfl
    | engine => exact reaches_of_step (step_withTurns_engine hidle ts) (ih hts) hshorter
    | releaseReset => exact reaches_of_step (step_withTurns_releaseReset hidle.1 ts) (ih hts) hshorter
    | assertReset => exact absurd rfl hu

/-- `WAIT` on an idle block is over at the host's next turn, and leaves the block as it was. -/
theorem reaches_of_wait_idle {s : State} {rest : List HostOp} (hidle : s.idle) (hno : s.noReset)
    (hprog : s.program = .wait :: rest) : s.Reaches (s.turns.length + 1) rest s.blk := by
  refine reaches_of_host_turn hidle (fun ts _ hturn => ?_) s.turns hno
  exact reaches_of_last_step ts.length (step_of_wait_idle (s := s.withTurns ts) hturn hidle hprog)

theorem noReset_popTurn {s : State} (hno : s.noReset) : s.popTurn.noReset := mt List.mem_of_mem_tail hno

/-- At the engine's turn the started operation commits, and the `WAIT` is over at the host's next turn after it. -/
theorem reaches_of_commit {s : State} {i : Instr} {rest : List HostOp} (hturn : nextTurn s = .engine)
    (hr : s.rstN = true) (hb : s.blk.busy = true) (hi : latchedInstr s.blk.opl = some i) (hno : s.noReset)
    (hprog : s.program = .wait :: rest) : s.Reaches (s.turns.length + 2) rest (commitOf s.cfg s.blk i) := by
  have hwait := reaches_of_wait_idle (s := { s.popTurn with blk := commitOf s.cfg s.blk i })
    ⟨hr, commitOf_busy s.cfg s.blk i⟩ (noReset_popTurn hno) hprog
  refine reaches_of_step (step_of_engine hturn hb hi) hwait ?_
  simp only [State.popTurn_turns, List.length_tail]
  omega

/-- `WAIT` on a busy block is over after the commit: no turn before it changes the latched operation or its operands,
and the commit comes at the latest when the listed turns are used up (R147, log entry 5). -/
theorem reaches_of_wait_busy {s : State} {i : Instr} {rest : List HostOp} (hr : s.rstN = true)
    (hb : s.blk.busy = true) (hi : latchedInstr s.blk.opl = some i) (hno : s.noReset)
    (hprog : s.program = .wait :: rest) : s.Reaches (s.turns.length + 2) rest (commitOf s.cfg s.blk i) := by
  induction hts : s.turns generalizing s with
  | nil =>
    have hturn : nextTurn s = .engine := by simp [nextTurn, hts, hb]
    simpa [hts] using reaches_of_commit hturn hr hb hi hno hprog
  | cons u ts ih =>
    have hturn : nextTurn s = u := nextTurn_of_turns hts
    have htail : s.popTurn.turns = ts := congrArg List.tail hts
    have hshorter : ts.length + 2 < (u :: ts).length + 2 := by rw [List.length_cons]; omega
    have hno' := noReset_popTurn hno
    cases u with
    | host =>
      exact reaches_of_step (step_of_wait_busy hturn hr hb hprog) (ih hr hb hi hno' hprog htail) hshorter
    | engine => simpa [hts] using reaches_of_commit hturn hr hb hi hno hprog
    | releaseReset =>
      have hstep : step s = .next s.popTurn.releaseReset := by rw [step, hturn]; rfl
      exact reaches_of_step hstep (ih (s := s.popTurn.releaseReset) rfl hb hi hno' hprog htail) hshorter
    | assertReset => exact absurd (hts ▸ List.mem_cons_self) hno

/-- A command issued to an idle block and then waited for ends with the block of its commit. -/
theorem reaches_of_command_then_wait {s : State} {w : Word} {i : Instr} {rest : List HostOp} (hidle : s.idle)
    (hno : s.noReset) (hw : decode w = .ok i) (hprog : s.program = .wr cmdAddr w :: .wait :: rest) :
    s.Reaches (s.turns.length + 3) rest (commitOf s.cfg { s.blk with opl := latchOf w, busy := true } i) := by
  refine reaches_of_host_turn hidle (fun ts hts hturn => ?_) s.turns hno
  have hissue := step_of_write_cmd (s := s.withTurns ts) hturn hidle hprog
  rw [command_of_decode hw] at hissue
  have hwait := reaches_of_wait_busy (s := { (s.withTurns ts).popTurn with
      program := .wait :: rest, blk := { s.blk with opl := latchOf w, busy := true } })
    hidle.1 rfl (latchedInstr_latchOf hw) (noReset_popTurn hts) rfl
  refine reaches_of_step hissue hwait ?_
  simp only [State.popTurn_turns, List.length_tail, State.withTurns]
  omega

/-- Settles O55: `exec` at the issue is the commit of the block as the issue leaves it. -/
theorem commandThenWaitGetsTheResult : Obligations.CommandThenWaitGetsTheResult := by
  intro s w i rest _ hidle hno hw hprog
  obtain ⟨k, t, hk, hrun, hrest, hblk⟩ := reaches_of_command_then_wait hidle hno hw hprog
  exact ⟨k, _, t, hk, exec_eq i _, hrun, hrest, hblk⟩

end Sys2Proof.Machine
end

section
/-! PROOFS. The statements of 30_encoding.md about the load lines, and about what the result of an operation depends on. -/

namespace Sys2Proof.Machine

/-! ### The load lines `LDB`, `LDS` and `LDC` (R67) -/

/-- With no turns listed the host's legal write to the idle block is the next step. -/
theorem step_of_write_legal {s : State} {a : Addr} {v : Word} {r : Reg} {rest : List HostOp} (hidle : s.idle)
    (hturns : s.turns = []) (hprog : s.program = .wr a v :: rest) (ha : regAt s.cfg a = some r)
    (hl : writeLegal s.cfg r v = true) :
    step s = .next { s with program := rest, blk := writeReg r v s.blk } := by
  rw [step_of_write_mapped (nextTurn_of_idle hidle hturns) hidle hprog ha, if_pos hl, State.popTurn, hturns]
  rfl

/-- `put` is the idle block as a function of the contents of one buffer, whose first `n` elements stand at the addresses
`slot` and take any value of their width. -/
structure LoadTarget (p : Params) (slot : Nat → Addr) (n : Nat) {w : Nat} (put : List (BitVec w) → Block) :
    Prop where
  idle : ∀ l, (put l).busy = false
  stores : ∀ i, i < n → ∃ r, regAt p (slot i) = some r ∧ ∀ x l, i < l.length →
    writeLegal p r (x.setWidth 32) = true ∧ writeReg r (x.setWidth 32) (put l) = put (l.set i x)

/-- Writing slot `i` and then the slots after it is writing the slots from `i` on. -/
theorem take_append_overwrite_set {α : Type} {l : List α} {i : Nat} (hi : i < l.length) (x : α) (xs : List α) :
    (l.set i x).take (i + 1) ++ overwrite xs ((l.set i x).drop (i + 1)) =
      l.take i ++ overwrite (x :: xs) (l.drop i) := by
  have hset : i < (l.set i x).length := by rwa [List.length_set]
  rw [List.take_succ_eq_append_getElem hset, List.getElem_set_self, List.take_set_of_le le_rfl,
    List.drop_set_of_lt (Nat.lt_succ_self i), List.drop_eq_getElem_cons hi, overwrite, List.append_assoc]
  rfl

section
variable {slot : Nat → Addr} {n w : Nat} {put : List (BitVec w) → Block} {l xs : List (BitVec w)}
  {rest : List HostOp} {s : State}

/-- The stores of a load line write their elements to consecutive slots, one step to an element. -/
theorem runFor_storeFrom {i : Nat} (htarget : LoadTarget s.cfg slot n put) (hr : s.rstN = true)
    (hturns : s.turns = []) (hblk : s.blk = put l) (hl : n ≤ l.length) (hlen : i + xs.length ≤ n)
    (hprog : s.program = storeFrom slot i (xs.map (BitVec.setWidth 32)) ++ rest) (k : Nat) :
    runFor (k + xs.length) s =
      runFor k { s with program := rest, blk := put (l.take i ++ overwrite xs (l.drop i)) } := by
  induction xs generalizing i l s with
  | nil =>
    have hs : s = { s with program := rest, blk := put (l.take i ++ overwrite [] (l.drop i)) } := by
      rw [overwrite, List.take_append_drop, ← hblk, show rest = s.program from hprog.symm]
    exact congrArg (runFor k) hs
  | cons x xs ih =>
    rw [List.length_cons] at hlen ⊢
    obtain ⟨r, ha, hstore⟩ := htarget.stores i (by omega)
    obtain ⟨hlegal, hwrite⟩ := hstore x l (by omega)
    have hidle : s.idle := ⟨hr, hblk ▸ htarget.idle l⟩
    have hstep := step_of_write_legal hidle hturns hprog ha hlegal
    rw [hblk, hwrite] at hstep
    have hrest := ih (i := i + 1)
      (s := { s with
        program := storeFrom slot (i + 1) (xs.map (BitVec.setWidth 32)) ++ rest
        blk := put (l.set i x) })
      htarget hr hturns rfl (by rwa [List.length_set]) (by omega) rfl
    rw [take_append_overwrite_set (by omega)] at hrest
    exact (runFor_succ hstep (k + xs.length)).trans hrest

/-- A whole load line: the stores, then the write of the length register. -/
theorem runFor_loadLine {r : Reg} (htarget : LoadTarget s.cfg slot n put) (hr : s.rstN = true)
    (hturns : s.turns = []) (hblk : s.blk = put l) (hl : n ≤ l.length) (hlen : xs.length ≤ n)
    (ha : regAt s.cfg (addrOf r) = some r) (hlegal : writeLegal s.cfg r (BitVec.ofNat 32 xs.length) = true)
    (hprog : s.program =
      storeFrom slot 0 (xs.map (BitVec.setWidth 32)) ++ .wr (addrOf r) (BitVec.ofNat 32 xs.length) :: rest) :
    runFor (xs.length + 1) s = .next { s with
      program := rest
      blk := writeReg r (BitVec.ofNat 32 xs.length) (put (xs ++ l.drop xs.length)) } := by
  have hstores := runFor_storeFrom (i := 0) htarget hr hturns hblk hl (by omega) hprog 1
  rw [List.take_zero, List.drop_zero, List.nil_append, overwrite_eq (by omega)] at hstores
  have hlast := step_of_write_legal
    (s := { s with
      program := .wr (addrOf r) (BitVec.ofNat 32 xs.length) :: rest
      blk := put (xs ++ l.drop xs.length) })
    ⟨hr, htarget.idle _⟩ hturns rfl ha hlegal
  rw [Nat.add_comm, hstores]
  exact runFor_succ hlast 0

end

/-- The word that stores an element is below the bound of the element's width. -/
theorem toNat_setWidth_lt {w : Nat} (hw : w ≤ 32) (x : BitVec w) : (x.setWidth 32).toNat < 2 ^ w := by
  rw [BitVec.toNat_setWidth_of_le hw]
  exact x.isLt

theorem toNat_ofNat_le {n m : Nat} (h : n ≤ m) : (BitVec.ofNat 32 n).toNat ≤ m :=
  le_trans (Nat.mod_le _ _) h

theorem loadTarget_buf {p : Params} {b : Block} (hp : p.wf = true) (hb : b.busy = false) :
    LoadTarget p bufAddr p.nb (fun l => { b with buf := l }) := by
  refine ⟨fun _ => hb, fun i hi => ⟨.buf i, regAt_bufAddr hp hi, fun x _ _ => ⟨?_, ?_⟩⟩⟩
  · exact (writeLegal_buf p i _).mpr (toNat_setWidth_lt (by decide) x)
  · rw [writeReg, BitVec.setWidth_setWidth_of_le _ (by decide), BitVec.setWidth_eq]

theorem loadTarget_chr {p : Params} {b : Block} (hp : p.wf = true) (hb : b.busy = false) :
    LoadTarget p chrAddr p.nc (fun l => { b with chr := l }) := by
  refine ⟨fun _ => hb, fun j hj => ⟨.chr j, regAt_chrAddr hp hj, fun x _ _ => ⟨?_, ?_⟩⟩⟩
  · exact (writeLegal_chr p j _).mpr (toNat_setWidth_lt (by decide) x)
  · rw [writeReg, BitVec.setWidth_setWidth_of_le _ (by decide), BitVec.setWidth_eq]

/-- The contents of `SYM` from a list of its elements. -/
def symOfList (l : List Symbol) : Vector Symbol 12 := Vector.ofFn fun k => l.getD k.val 0#11

@[simp] theorem symOfList_toList (sym : Vector Symbol 12) : symOfList sym.toList = sym := by
  ext k hk
  simp [symOfList]

theorem toList_symOfList {l : List Symbol} (hl : l.length = 12) : (symOfList l).toList = l := by
  apply List.ext_getElem
  · rw [Vector.length_toList, hl]
  · intro k h1 h2
    simp [symOfList, h2]

theorem symOfList_set {l : List Symbol} {k : Nat} (hl : k < l.length) (hk : k < 12) (x : Symbol) :
    symOfList (l.set k x) = (symOfList l).set k x hk := by
  ext j hj
  by_cases hkj : k = j
  · subst hkj
    simp [symOfList, hl]
  · simp [symOfList, List.getElem?_set_ne hkj, Vector.getElem_set_ne _ _ hkj]

theorem loadTarget_sym {p : Params} {b : Block} (hb : b.busy = false) :
    LoadTarget p symAddr 12 (fun l => { b with sym := symOfList l }) := by
  refine ⟨fun _ => hb, fun k hk => ⟨.sym ⟨k, hk⟩, regAt_symAddr p ⟨k, hk⟩, fun x l hl => ⟨?_, ?_⟩⟩⟩
  · exact (writeLegal_sym p _ _).mpr (toNat_setWidth_lt (by decide) x)
  · rw [writeReg, BitVec.setWidth_setWidth_of_le _ (by decide), BitVec.setWidth_eq, symOfList_set hl hk]

/-- Settles O27: each buffer of a well-formed idle block is a target of its load line. -/
theorem loadLinesLoadTheirBuffers : Obligations.LoadLinesLoadTheirBuffers := by
  rintro s rest ⟨hp, hbuf, hchr, -, -⟩ ⟨hr, hb⟩ hturns
  refine ⟨fun bs hlen hprog => ?_, fun ss hlen hprog => ?_, fun cs hlen hprog => ?_⟩
  · rw [expand, List.append_assoc] at hprog
    have hrun := runFor_loadLine (loadTarget_buf hp hb) hr hturns rfl hbuf.ge hlen rfl
      ((writeLegal_blen hp _).mpr (toNat_ofNat_le hlen)) hprog
    rwa [writeReg, BitVec.setWidth_ofNat_of_le (by decide)] at hrun
  · rw [expand, List.append_assoc] at hprog
    have hsym : s.blk.sym.toList.length = 12 := Vector.length_toList
    have hblk : s.blk = { s.blk with sym := symOfList s.blk.sym.toList } := by rw [symOfList_toList]
    have hrun := runFor_loadLine (loadTarget_sym hb) hr hturns hblk hsym.ge hlen rfl
      ((writeLegal_scnt s.cfg _).mpr (toNat_ofNat_le (by omega))) hprog
    rw [writeReg, BitVec.setWidth_ofNat_of_le (by decide)] at hrun
    refine ⟨_, toList_symOfList ?_, hrun⟩
    rw [List.length_append, List.length_drop]
    omega
  · rw [expand, List.append_assoc, ← List.length_map (f := charCode)] at hprog
    have hlen' : (cs.map charCode).length ≤ s.cfg.nc := by rwa [List.length_map]
    have hrun := runFor_loadLine (loadTarget_chr hp hb) hr hturns rfl hchr.ge hlen' rfl
      ((writeLegal_clen hp _).mpr (toNat_ofNat_le hlen')) (by rw [hprog, List.map_map]; rfl)
    rwa [writeReg, BitVec.setWidth_ofNat_of_le (by decide), List.length_map] at hrun

/-! ### What the result of an operation depends on (R62, R29) -/

/-- The blocks hold the same in the buffers and the lengths. -/
structure Block.SameData (b b' : Block) : Prop where
  buf : b'.buf = b.buf
  sym : b'.sym = b.sym
  chr : b'.chr = b.chr
  blen : b'.blen = b.blen
  scnt : b'.scnt = b.scnt
  clen : b'.clen = b.clen

/-- The blocks show the same result of the operation `i`: the same data and `ERR`, and the same residue where `i` is a
mnemonic operation that succeeded. -/
structure Block.SameResult (i : Instr) (b b' : Block) : Prop where
  data : b.SameData b'
  err : b'.err = b.err
  residue : (i = .mnenc ∨ i = .mndec) → b.err = 0#4 → b'.acc = b.acc ∧ b'.cnt = b.cnt

/-- No error has the code of success (R121). -/
theorem OpError.code_ne_zero (e : OpError) : e.code ≠ 0#4 := by
  cases e <;> decide

/-- An error leaves the data and shows its code (R124). -/
theorem raise_sameResult {b b' : Block} (h : b.SameData b') (i : Instr) (e : OpError) :
    (b.raise e).SameResult i (b'.raise e) :=
  ⟨⟨h.buf, h.sym, h.chr, h.blen, h.scnt, h.clen⟩, rfl, fun _ herr => absurd herr e.code_ne_zero⟩

/-- The seed, the valid bytes and the valid characters are read from the data alone (R63). -/
theorem operands_of_sameData {b b' : Block} (h : b.SameData b') :
    seedBytes b' = seedBytes b ∧ validBytes b' = validBytes b ∧ validChars b' = validChars b := by
  simp only [seedBytes, validBytes, validChars, h.buf, h.blen, h.chr, h.clen, and_self]

/-- Each commit tests and computes with the data alone. -/
theorem commitOf_sameResult {b b' : Block} (h : b.SameData b') (p : Params) (i : Instr) :
    (commitOf p b i).SameResult i (commitOf p b' i) := by
  obtain ⟨hseed, hbytes, hchars⟩ := operands_of_sameData h
  have ⟨hbuf, hsym, hchr, hblen, hscnt, hclen⟩ := h
  cases i with
  | mnenc =>
    simp only [commitOf, mnencCommit, hblen, hseed]
    split
    · exact raise_sameResult h _ _
    · exact ⟨⟨hbuf, rfl, hchr, rfl, rfl, hclen⟩, rfl, fun _ _ => ⟨rfl, rfl⟩⟩
  | mndec =>
    simp only [commitOf, mndecCommit, hscnt, hsym, hbuf]
    split
    · exact raise_sameResult h _ _
    · split
      · exact raise_sameResult h _ _
      · exact ⟨⟨rfl, rfl, hchr, rfl, rfl, hclen⟩, rfl, fun _ _ => ⟨rfl, rfl⟩⟩
  | b58enc =>
    simp only [commitOf, b58encCommit, hbytes, hchr]
    split
    · exact raise_sameResult h _ _
    · exact ⟨⟨hbuf, hsym, rfl, hblen, hscnt, rfl⟩, rfl, by simp⟩
  | b58dec =>
    simp only [commitOf, b58decCommit, hchars, hbuf]
    split
    · exact raise_sameResult h _ _
    · split
      · exact raise_sameResult h _ _
      · exact ⟨⟨rfl, hsym, hchr, rfl, hscnt, hclen⟩, rfl, by simp⟩

/-- Settles O48. -/
theorem resultsIgnoreFlagsAndHistory : Obligations.ResultsIgnoreFlagsAndHistory := by
  intro i s s' t t' hcfg hbuf hsym hchr hblen hscnt hclen hexec hexec'
  rw [exec_eq, step_next_eq] at hexec hexec'
  subst hexec hexec'
  obtain ⟨⟨hbuf', hsym', hchr', hblen', hscnt', hclen'⟩, herr, hresidue⟩ :=
    commitOf_sameResult ⟨hbuf, hsym, hchr, hblen, hscnt, hclen⟩ s.cfg i
  rw [hcfg]
  exact ⟨hbuf', hsym', hchr', hblen', hscnt', hclen', herr, hresidue⟩

end Sys2Proof.Machine
end

section
/-! PROOFS. Numbers as rows of bit fields: the value of a row of words written one after the other, and the fields of a
value, most significant first. The seed of R80 is such a number, read in bytes or in symbols. -/

namespace Sys2Proof.Machine

/-- The number whose bits are the words of `xs` one after the other, the first at the top. -/
def joinBits {w : Nat} (xs : List (BitVec w)) : Nat := xs.foldl (fun v x => v * 2 ^ w + x.toNat) 0

@[simp] theorem joinBits_nil {w : Nat} : joinBits ([] : List (BitVec w)) = 0 := rfl

@[simp] theorem joinBits_append_one {w : Nat} (xs : List (BitVec w)) (x : BitVec w) :
    joinBits (xs ++ [x]) = joinBits xs * 2 ^ w + x.toNat := by
  rw [joinBits, List.foldl_append]
  rfl

theorem joinBits_cons {w : Nat} (x : BitVec w) (xs : List (BitVec w)) :
    joinBits (x :: xs) = x.toNat * 2 ^ (w * xs.length) + joinBits xs := by
  induction xs using List.reverseRecOn with
  | nil => simp [joinBits]
  | append_singleton xs y ih =>
    rw [← List.cons_append, joinBits_append_one, joinBits_append_one, ih, List.length_append, List.length_singleton,
      Nat.mul_add, Nat.mul_one, pow_add]
    ring

theorem joinBits_lt {w : Nat} (xs : List (BitVec w)) : joinBits xs < 2 ^ (w * xs.length) := by
  induction xs using List.reverseRecOn with
  | nil => exact Nat.one_pos
  | append_singleton xs x ih =>
    rw [joinBits_append_one, List.length_append, List.length_singleton, Nat.mul_add, Nat.mul_one, pow_add]
    calc joinBits xs * 2 ^ w + x.toNat < joinBits xs * 2 ^ w + 2 ^ w := Nat.add_lt_add_left x.isLt _
      _ = (joinBits xs + 1) * 2 ^ w := by ring
      _ ≤ 2 ^ (w * xs.length) * 2 ^ w := Nat.mul_le_mul_right _ ih

/-- Rows of the same length with the same value are the same row. -/
theorem joinBits_inj {w : Nat} {xs ys : List (BitVec w)} (hlen : xs.length = ys.length)
    (h : joinBits xs = joinBits ys) : xs = ys := by
  induction xs generalizing ys with
  | nil => exact (List.eq_nil_of_length_eq_zero hlen.symm).symm
  | cons x xs ih =>
    obtain - | ⟨y, ys⟩ := ys
    · cases hlen
    · have hlen' : xs.length = ys.length := Nat.succ.inj hlen
      have hys : joinBits ys < 2 ^ (w * xs.length) := hlen' ▸ joinBits_lt ys
      rw [joinBits_cons, joinBits_cons, ← hlen', Nat.mul_comm, Nat.mul_comm y.toNat] at h
      have hhead := congrArg (· / 2 ^ (w * xs.length)) h
      have htail := congrArg (· % 2 ^ (w * xs.length)) h
      simp only [Nat.mul_add_div (Nat.two_pow_pos _), Nat.mul_add_mod, Nat.div_eq_of_lt (joinBits_lt xs),
        Nat.div_eq_of_lt hys, Nat.mod_eq_of_lt (joinBits_lt xs), Nat.mod_eq_of_lt hys, Nat.add_zero] at hhead htail
      rw [BitVec.eq_of_toNat_eq hhead, ih hlen' htail]

/-- The `n` fields of `w` bits that stand in `V` above its lowest `c` bits, most significant first. -/
def fields (w : Nat) : Nat → Nat → Nat → List (BitVec w)
  | 0, _, _ => []
  | n + 1, c, V => BitVec.ofNat w (V >>> (c + w * n)) :: fields w n c V

@[simp] theorem fields_length (w n c V : Nat) : (fields w n c V).length = n := by
  induction n with
  | zero => rfl
  | succ n ih => rw [fields, List.length_cons, ih]

/-- The fields of a number, written one after the other, are its bits from `c` on. -/
theorem joinBits_fields (w n c V : Nat) : joinBits (fields w n c V) = V / 2 ^ c % 2 ^ (w * n) := by
  induction n with
  | zero => simp [fields, Nat.mod_one]
  | succ n ih =>
    rw [fields, joinBits_cons, fields_length, ih, BitVec.toNat_ofNat, Nat.shiftRight_eq_div_pow, pow_add,
      ← Nat.div_div_eq_div_mul, Nat.mul_succ, pow_add, Nat.mod_mul]
    ring

/-- A row of words is the fields of any number that it is the top of. -/
theorem eq_fields {w c r V : Nat} {xs : List (BitVec w)} (hV : V = joinBits xs * 2 ^ c + r) (hr : r < 2 ^ c) :
    xs = fields w xs.length c V := by
  refine joinBits_inj (fields_length ..).symm ?_
  have htop : V / 2 ^ c = joinBits xs := by
    rw [hV, Nat.mul_comm, Nat.mul_add_div (Nat.two_pow_pos c), Nat.div_eq_of_lt hr, Nat.add_zero]
  rw [joinBits_fields, htop, Nat.mod_eq_of_lt (joinBits_lt xs)]

/-! ### The closed forms of R80 as rows of fields -/

/-- `be` (R6) writes the bytes one after the other. -/
theorem be_eq_joinBits (bs : List Byte) : be bs = joinBits bs := by
  simp only [be, joinBits, Nat.mul_comm]
  rfl

theorem seedOfSymbols_eq (sym : Vector Symbol 12) : seedOfSymbols sym = joinBits sym.toList * 2 ^ padBits := rfl

theorem bytesOfSeed_eq_fields (S : Nat) : bytesOfSeed S = fields 8 17 0 S := rfl

theorem symbolsOfSeed_toList (S : Nat) : (symbolsOfSeed S).toList = fields 11 12 padBits S := rfl

@[simp] theorem bytesOfSeed_length (S : Nat) : (bytesOfSeed S).length = 17 := by
  rw [bytesOfSeed_eq_fields, fields_length]

/-- Seventeen bytes are the bytes of their value. -/
theorem bytesOfSeed_be {bs : List Byte} (hlen : bs.length = 17) : bytesOfSeed (be bs) = bs := by
  rw [be_eq_joinBits, bytesOfSeed_eq_fields, ← hlen]
  exact (eq_fields (c := 0) (r := 0) (by simp) (by simp)).symm

theorem be_bytesOfSeed {S : Nat} (hS : S < 2 ^ 136) : be (bytesOfSeed S) = S := by
  rw [be_eq_joinBits, bytesOfSeed_eq_fields, joinBits_fields, pow_zero, Nat.div_one]
  exact Nat.mod_eq_of_lt hS

theorem be_lt {bs : List Byte} (hlen : bs.length = 17) : be bs < 2 ^ 136 := by
  have h := joinBits_lt bs
  rwa [hlen, ← be_eq_joinBits] at h

theorem seedOfSymbols_lt (sym : Vector Symbol 12) : seedOfSymbols sym < 2 ^ 136 := by
  have h := joinBits_lt sym.toList
  rw [Vector.length_toList] at h
  rw [seedOfSymbols_eq, padBits]
  omega

/-- Twelve symbols are the symbols of their seed value (R80). -/
theorem symbolsOfSeed_seedOfSymbols (sym : Vector Symbol 12) : symbolsOfSeed (seedOfSymbols sym) = sym := by
  have h : sym.toList = fields 11 sym.toList.length padBits (seedOfSymbols sym) :=
    eq_fields (r := 0) (seedOfSymbols_eq sym) (by decide)
  rw [Vector.length_toList] at h
  exact Vector.toList_inj.mp (by rw [symbolsOfSeed_toList, ← h])

/-- The symbols of a seed value lose its padding and nothing else (R80). -/
theorem seedOfSymbols_symbolsOfSeed {S : Nat} (hS : S < 2 ^ 136) :
    seedOfSymbols (symbolsOfSeed S) = S / 2 ^ padBits * 2 ^ padBits := by
  have htop : S / 2 ^ padBits < 2 ^ (11 * 12) := by rw [padBits]; omega
  rw [seedOfSymbols_eq, symbolsOfSeed_toList, joinBits_fields, Nat.mod_eq_of_lt htop]

end Sys2Proof.Machine
end

section
/-! PROOFS. The invariant of the two packing loops (R83): what a bit stream has taken in is what it has emitted and what
it still holds, in that order. -/

namespace Sys2Proof.Machine

/-- The stream has taken in the `T` bits of the number `V`: it has emitted them from the top in words of `w` bits, and
holds the others (R83). -/
structure BitStream.Carries (w T V : Nat) (t : BitStream) : Prop where
  tight : t.Tight
  bits : t.cnt + w * t.out.length = T
  value : joinBits (t.out.map (BitVec.ofNat w)) * 2 ^ t.cnt + t.acc = V

theorem start_carries (w : Nat) : BitStream.start.Carries w 0 0 := ⟨start_tight, rfl, rfl⟩

theorem BitStream.Carries.shiftIn {w T V u v : Nat} {t : BitStream} (h : t.Carries w T V) (hv : v < 2 ^ u) :
    (t.shiftIn u v).Carries w (T + u) (V * 2 ^ u + v) where
  tight := shiftIn_tight hv h.tight
  bits := by rw [shiftIn_cnt, shiftIn_out, ← h.bits]; omega
  value := by rw [shiftIn_acc_eq hv, shiftIn_cnt, shiftIn_out, ← h.value, pow_add]; ring

theorem BitStream.Carries.emit {w T V : Nat} {t : BitStream} (h : t.Carries w T V) (hw : w ≤ t.cnt) :
    (t.emit w).Carries w T V where
  tight := emit_tight w t
  bits := by rw [emit_cnt, emit_out, List.length_append, List.length_singleton, ← h.bits, Nat.mul_succ]; omega
  value := by
    obtain ⟨c, hc⟩ := Nat.exists_eq_add_of_le' hw
    have htop : t.acc / 2 ^ c < 2 ^ w := by
      rw [Nat.div_lt_iff_lt_mul (Nat.two_pow_pos c), ← pow_add, Nat.add_comm, ← hc]
      exact h.tight
    rw [← h.value, emit_acc, emit_cnt, emit_out, hc, Nat.add_sub_cancel, List.map_append, List.map_singleton,
      joinBits_append_one, BitVec.toNat_ofNat, Nat.mod_eq_of_lt htop, pow_add]
    conv_rhs => rw [← Nat.div_add_mod t.acc (2 ^ c)]
    ring

theorem BitStream.Carries.emitBytes {T V fuel : Nat} {t : BitStream} (h : t.Carries 8 T V) :
    (emitBytes fuel t).Carries 8 T V := by
  induction fuel generalizing t with
  | zero => exact h
  | succ fuel ih =>
    rw [Machine.emitBytes]
    split
    next hfull => exact ih (h.emit hfull)
    next => exact h

theorem BitStream.Carries.packByte {T V : Nat} {t : BitStream} (h : t.Carries 11 T V) (b : Byte) :
    (packByte t b).Carries 11 (T + 8) (V * 2 ^ 8 + b.toNat) := by
  unfold Machine.packByte
  split
  next hfull => exact (h.shiftIn b.isLt).emit hfull
  next => exact h.shiftIn b.isLt

theorem BitStream.Carries.unpackSymbol {T V : Nat} {t : BitStream} (h : t.Carries 8 T V) (k : Symbol) :
    (unpackSymbol t k).Carries 8 (T + 11) (V * 2 ^ 11 + k.toNat) :=
  (h.shiftIn k.isLt).emitBytes

/-- A loop whose every turn takes in one word takes in the whole row. -/
theorem foldl_carries {w u : Nat} {f : BitStream → BitVec u → BitStream}
    (hf : ∀ {T V t}, BitStream.Carries w T V t → ∀ x, (f t x).Carries w (T + u) (V * 2 ^ u + x.toNat))
    (xs : List (BitVec u)) : (xs.foldl f .start).Carries w (u * xs.length) (joinBits xs) := by
  induction xs using List.reverseRecOn with
  | nil => exact start_carries w
  | append_singleton xs x ih =>
    rw [List.foldl_append, joinBits_append_one, List.length_append, List.length_singleton, Nat.mul_succ]
    exact hf ih x

/-- The loop of `MNENC` takes in the big-endian value of the bytes (R81, R83). -/
theorem pack_carries (bs : List Byte) : (pack bs).Carries 11 (8 * bs.length) (be bs) := by
  rw [be_eq_joinBits]
  exact foldl_carries BitStream.Carries.packByte bs

/-- The loop of `MNDEC` takes in the symbols one after the other (R82, R83). -/
theorem unpack_carries (ss : List Symbol) : (unpack ss).Carries 8 (11 * ss.length) (joinBits ss) :=
  foldl_carries BitStream.Carries.unpackSymbol ss

section
variable {w T V : Nat} {t : BitStream}

/-- What the stream holds is the low end of what it took in. -/
theorem BitStream.Carries.acc_eq (h : t.Carries w T V) : t.acc = V % 2 ^ t.cnt := by
  rw [← h.value, Nat.mul_comm, Nat.mul_add_mod, Nat.mod_eq_of_lt h.tight]

/-- What the stream emitted is the fields of what it took in, above what it holds. -/
theorem BitStream.Carries.out_eq (h : t.Carries w T V) :
    t.out.map (BitVec.ofNat w) = fields w t.out.length t.cnt V := by
  conv_lhs => rw [eq_fields h.value.symm h.tight, List.length_map]

end

theorem pack_out_length (bs : List Byte) : (pack bs).out.length = 8 * bs.length / 11 := by
  have hbits := (pack_carries bs).bits
  rw [pack_cnt] at hbits
  omega

theorem unpack_out_length (ss : List Symbol) : (unpack ss).out.length = 11 * ss.length / 8 := by
  have hbits := (unpack_carries ss).bits
  rw [unpack_cnt] at hbits
  omega

/-- Settles O33, by the invariant `Carries`: the bits emitted and held are those taken in. -/
theorem bitCountsDoNotDependOnData : Obligations.BitCountsDoNotDependOnData :=
  ⟨fun bs => ⟨pack_cnt bs, pack_out_length bs, pack_tight bs⟩,
    fun ss => ⟨unpack_cnt ss, unpack_out_length ss, unpack_tight ss⟩⟩

end Sys2Proof.Machine
end

section
/-! PROOFS. The statements of 40_mnemonic.md about `MNENC` and `MNDEC`: their closed forms (R80) and round trips
(R84). -/

namespace Sys2Proof.Machine

/-! ### `MNENC` (R81) -/

theorem pack_cnt_of_seed {bs : List Byte} (hlen : bs.length = seedLen) : (pack bs).cnt = padBits := by
  rw [pack_cnt, hlen]
  rfl

/-- The residue of a seed is its padding (R80). -/
theorem pack_acc_of_seed {bs : List Byte} (hlen : bs.length = seedLen) : (pack bs).acc = be bs % 16 := by
  rw [(pack_carries bs).acc_eq, pack_cnt_of_seed hlen]
  rfl

theorem symbolVector_eq (out : List Nat) : symbolVector out = symOfList (out.map (BitVec.ofNat 11)) := by
  ext k hk
  simp [symOfList]

/-- The symbols that the loop emits for a seed are those of the closed form (R80). -/
theorem symbolVector_pack {bs : List Byte} (hlen : bs.length = seedLen) :
    symbolVector (pack bs).out = symbolsOfSeed (be bs) := by
  have hout : (pack bs).out.map (BitVec.ofNat 11) = (symbolsOfSeed (be bs)).toList := by
    rw [(pack_carries bs).out_eq, pack_cnt_of_seed hlen, pack_out_length, hlen, symbolsOfSeed_toList]
    rfl
  rw [symbolVector_eq, hout, symOfList_toList]

/-- Settles O30, by what the loop carries at its end. -/
theorem mnencPacksTheSeed : Obligations.MnencPacksTheSeed := by
  intro s
  rw [exec_eq, commitOf]
  obtain ⟨hlen, hcommit⟩ | ⟨hlen, hcommit⟩ := mnencCommit_cases s.blk <;> rw [hcommit]
  · exact ⟨fun _ h => absurd (congrArg BitVec.toNat h) hlen, fun _ => rfl⟩
  · refine ⟨fun ⟨hp, hfits⟩ _ => ?_, fun h => absurd (BitVec.eq_of_toNat_eq hlen) h⟩
    have hseed := seedBytes_length hp hfits
    rw [symbolVector_pack hseed, pack_acc_of_seed hseed, pack_cnt_of_seed hseed]
    rfl

/-! ### `MNDEC` (R82, R85) -/

theorem unpack_acc_lt (sym : Vector Symbol 12) : (unpack sym.toList).acc < 16 := by
  have h : (unpack sym.toList).acc < 2 ^ (unpack sym.toList).cnt := unpack_tight _
  rwa [unpack_cnt_vector] at h

/-- The residue of twelve symbols is the low nibble of the last one. -/
theorem unpack_acc_vector (sym : Vector Symbol 12) : (unpack sym.toList).acc = sym[11].toNat % 16 := by
  have hlast : sym.toList = sym.toList.take 11 ++ [sym[11]] := by
    rw [← Vector.getElem_toList (h := by simp), ← List.take_succ_eq_append_getElem,
      List.take_of_length_le (by simp)]
  rw [(unpack_carries _).acc_eq, unpack_cnt_vector, hlast, joinBits_append_one, padBits]
  omega

/-- The final byte holds the residue in its upper nibble (R82). -/
theorem lastByte_eq {acc : Nat} (h : acc < 16) : lastByte acc = acc * 16 := by
  rw [lastByte, Nat.shiftLeft_eq, show 0xFF = mask 8 from rfl, and_mask]
  exact Nat.mod_eq_of_lt (by rw [padBits]; omega)

theorem unpackedSeed_length (sym : Vector Symbol 12) : (unpackedSeed sym.toList).length = 17 := by
  simp [unpackedSeed, unpack_out_length]

/-- The bytes that `MNDEC` writes have the value of the closed form (R80). -/
theorem be_unpackedSeed (sym : Vector Symbol 12) : be (unpackedSeed sym.toList) = seedOfSymbols sym := by
  have hvalue := (unpack_carries sym.toList).value
  have hacc := unpack_acc_lt sym
  rw [unpack_cnt_vector] at hvalue
  rw [be_eq_joinBits, seedOfSymbols_eq, ← hvalue, unpackedSeed, List.map_append, List.map_singleton,
    joinBits_append_one, lastByte_eq hacc, BitVec.toNat_ofNat, padBits]
  omega

theorem unpackedSeed_eq (sym : Vector Symbol 12) : unpackedSeed sym.toList = bytesOfSeed (seedOfSymbols sym) := by
  rw [← be_unpackedSeed, bytesOfSeed_be (unpackedSeed_length sym)]

/-- A block that fits its build has room for the seed that `MNDEC` writes. -/
theorem overwrite_unpackedSeed {p : Params} {b : Block} (hp : p.wf = true) (hfits : b.fits p) :
    overwrite (unpackedSeed b.sym.toList) b.buf = bytesOfSeed (seedOfSymbols b.sym) ++ b.buf.drop 17 := by
  obtain ⟨hbuf, -⟩ := hfits
  have hroom := seedLen_le_nb hp
  rw [overwrite_eq (by rw [unpackedSeed_length, hbuf]; exact hroom), unpackedSeed_length, unpackedSeed_eq]

/-- Settles O31, by what the loop carries at its end. -/
theorem mndecUnpacksTheSymbols : Obligations.MndecUnpacksTheSymbols := by
  intro s
  rw [exec_eq, commitOf]
  obtain ⟨hcount, hcommit⟩ | ⟨hcount, hcommit⟩ := mndecCommit_cases s.blk <;> rw [hcommit]
  · exact ⟨fun _ h => absurd (congrArg BitVec.toNat h) hcount, fun _ => rfl⟩
  · refine ⟨fun ⟨hp, hfits⟩ _ => ?_, fun h => absurd (BitVec.eq_of_toNat_eq hcount) h⟩
    rw [overwrite_unpackedSeed hp hfits, unpack_acc_vector, unpack_cnt_vector]
    rfl

/-- Settles O32: `MNDEC` ends with code 1 or 0. -/
theorem packingErrorCannotOccur : Obligations.PackingErrorCannotOccur := by
  refine fun s t => ⟨unpack_cnt_vector s.blk.sym, fun hexec => ?_⟩
  rw [exec_eq, step_next_eq, commitOf] at hexec
  subst hexec
  obtain ⟨-, hcommit⟩ | ⟨-, hcommit⟩ := mndecCommit_cases s.blk <;> rw [hcommit]
  · rw [Block.raise_err]
    decide
  · rw [Block.succeed_err]
    decide

/-! ### The round trips (R84) -/

/-- Clearing the low nibble of a byte rounds it down to a multiple of 16. -/
theorem toNat_and_upperNibble (b : Byte) : (b &&& 0xF0#8).toNat = b.toNat / 16 * 16 := by
  have h : b &&& 0xF0#8 = (b >>> 4) <<< 4 := by
    ext i hi
    interval_cases i <;> simp
  rw [h, BitVec.toNat_shiftLeft, BitVec.toNat_ushiftRight, Nat.shiftLeft_eq, Nat.shiftRight_eq_div_pow]
  have := b.isLt
  omega

theorem and_upperNibble_of_clear {b : Byte} (h : b &&& 0x0F#8 = 0#8) : b &&& 0xF0#8 = b := by
  have hlow : b.toNat % 2 ^ 4 = 0 := by
    rw [← and_mask]
    exact congrArg BitVec.toNat h
  refine BitVec.eq_of_toNat_eq ?_
  rw [toNat_and_upperNibble]
  omega

/-- A buffer that holds a seed, split at the seed's last byte. -/
theorem take_seed {buf : List Byte} (h : 17 ≤ buf.length) : buf.take 17 = buf.take 16 ++ [buf.getD 16 0#8] := by
  rw [List.getD_eq_getElem _ _ (by omega), List.take_succ_eq_append_getElem]

/-- Dropping the padding of a seed clears the low nibble of its last byte (R80). -/
theorem bytesOfSeed_without_padding {buf : List Byte} (h : 17 ≤ buf.length) :
    bytesOfSeed (seedOfSymbols (symbolsOfSeed (be (buf.take 17)))) =
      buf.take 16 ++ [buf.getD 16 0#8 &&& 0xF0#8] := by
  have hvalue : be (buf.take 17) / 2 ^ padBits * 2 ^ padBits =
      be (buf.take 16 ++ [buf.getD 16 0#8 &&& 0xF0#8]) := by
    rw [take_seed h, be_append_one, be_append_one, toNat_and_upperNibble, padBits]
    omega
  rw [seedOfSymbols_symbolsOfSeed (be_lt (by simpa using h)), hvalue]
  exact bytesOfSeed_be (by simp; omega)

/-- A command leaves a well-formed state well formed. -/
theorem exec_wf {i : Instr} {s t : State} (hexec : exec i s = .next t) (h : s.wf) : t.wf := by
  rw [exec_eq, step_next_eq] at hexec
  subst hexec
  obtain ⟨hp, hfits⟩ := h
  exact ⟨hp, commitOf_fits hp hfits i⟩

/-- Settles O34, through the closed forms of both operations. -/
theorem seedRoundTrip : Obligations.SeedRoundTrip := by
  intro s hwf hblen
  have henc := (mnencPacksTheSeed s).1 hwf hblen
  have hdec := (mndecUnpacksTheSymbols _).1 (exec_wf henc hwf) rfl
  obtain ⟨hp, hbuf, -⟩ := hwf
  have hroom : 17 ≤ s.blk.buf.length := hbuf ▸ seedLen_le_nb hp
  have hresult : bytesOfSeed (seedOfSymbols (symbolsOfSeed (be (s.blk.buf.take 17)))) ++ s.blk.buf.drop 17 =
      s.blk.buf.set 16 (s.blk.buf.getD 16 0#8 &&& 0xF0#8) := by
    rw [bytesOfSeed_without_padding hroom, List.append_assoc, List.set_eq_take_append_cons_drop, if_pos (by omega)]
    rfl
  refine ⟨_, _, henc, hdec, rfl, rfl, hresult, fun hclear => ?_⟩
  rw [and_upperNibble_of_clear hclear, List.getD_eq_getElem _ _ (by omega), List.set_getElem_self] at hresult
  exact hresult

/-- Settles O35, through the closed forms of both operations. -/
theorem symbolRoundTrip : Obligations.SymbolRoundTrip := by
  intro s hwf hscnt
  have hdec := (mndecUnpacksTheSymbols s).1 hwf hscnt
  have henc := (mnencPacksTheSeed _).1 (exec_wf hdec hwf) rfl
  have hseed : be ((bytesOfSeed (seedOfSymbols s.blk.sym) ++ s.blk.buf.drop 17).take 17) =
      seedOfSymbols s.blk.sym := by
    rw [List.take_left' (bytesOfSeed_length _), be_bytesOfSeed (seedOfSymbols_lt _)]
  refine ⟨_, _, hdec, henc, rfl, rfl, ?_, ?_⟩
  · exact (congrArg symbolsOfSeed hseed).trans (symbolsOfSeed_seedOfSymbols _)
  · have hpad : seedOfSymbols s.blk.sym % 16 = 0 := Nat.mul_mod_left _ 16
    exact (congrArg (fun S => BitVec.ofNat 18 (S % 16)) hseed).trans (by rw [hpad])

end Sys2Proof.Machine
end

section
/-! PROOFS. Rows of digits: a row is its leading zeros and its value (R100), in any radix. -/

namespace Sys2Proof.Machine

/-- The row of digits of the pair (`z`, `n`) of R100: `z` zeros, then the digits of `n`, most significant first and
none for 0. -/
def digitRow (r z n : Nat) : List Nat := List.replicate z 0 ++ (Nat.digits r n).reverse

/-- How many zeros a row of digits begins with. -/
def leadingZeros (ds : List Nat) : Nat := (ds.takeWhile (· == 0)).length

@[simp] theorem leadingZeros_nil : leadingZeros [] = 0 := rfl

@[simp] theorem leadingZeros_zero_cons (ds : List Nat) : leadingZeros (0 :: ds) = leadingZeros ds + 1 := by
  simp [leadingZeros]

theorem leadingZeros_cons_of_ne {d : Nat} (hd : d ≠ 0) (ds : List Nat) : leadingZeros (d :: ds) = 0 := by
  simp [leadingZeros, hd]

theorem digitRow_succ (r z n : Nat) : digitRow r (z + 1) n = 0 :: digitRow r z n := rfl

/-- The digits of a number begin with no zero. -/
theorem leadingZeros_digits (r n : Nat) : leadingZeros (Nat.digits r n).reverse = 0 := by
  obtain rfl | hn := eq_or_ne n 0
  · simp
  · have hne := Nat.digits_ne_nil_iff_ne_zero (b := r).mpr hn
    rw [← List.dropLast_append_getLast hne, List.reverse_append, List.reverse_singleton, List.singleton_append,
      leadingZeros_cons_of_ne (Nat.getLast_digit_ne_zero r hn)]

@[simp] theorem leadingZeros_digitRow (r z n : Nat) : leadingZeros (digitRow r z n) = z := by
  induction z with
  | zero => exact leadingZeros_digits r n
  | succ z ih => rw [digitRow_succ, leadingZeros_zero_cons, ih]

@[simp] theorem ofDigits_digitRow (r z n : Nat) : Nat.ofDigits r (digitRow r z n).reverse = n := by
  induction z with
  | zero => simp [digitRow, Nat.ofDigits_digits]
  | succ z ih => rw [digitRow_succ, Nat.ofDigits_reverse_zero_cons, ih]

/-- A row of digits is determined by its leading zeros and its value (R100). -/
theorem digitRow_of_row {r : Nat} (hr : 1 < r) {ds : List Nat} (hds : ∀ d ∈ ds, d < r) :
    digitRow r (leadingZeros ds) (Nat.ofDigits r ds.reverse) = ds := by
  induction ds with
  | nil => simp [digitRow]
  | cons d ds ih =>
    obtain rfl | hd := eq_or_ne d 0
    · rw [leadingZeros_zero_cons, Nat.ofDigits_reverse_zero_cons, digitRow_succ,
        ih fun e he => hds e (List.mem_cons_of_mem _ he)]
    · have hdigits := Nat.digits_ofDigits r hr (d :: ds).reverse (fun e he => hds e (List.mem_reverse.mp he))
        (by simpa using hd)
      rw [leadingZeros_cons_of_ne hd, digitRow, hdigits, List.reverse_reverse]
      rfl

theorem digitRow_lt {r : Nat} (hr : 1 < r) {z n d : Nat} (hd : d ∈ digitRow r z n) : d < r := by
  obtain hzero | hdigit := List.mem_append.mp hd
  · rw [List.eq_of_mem_replicate hzero]
    omega
  · exact Nat.digits_lt_base hr (List.mem_reverse.mp hdigit)

theorem digitRow_length {r : Nat} (hr : 1 < r) (z n : Nat) :
    (digitRow r z n).length = z + (if n = 0 then 0 else Nat.log r n + 1) := by
  obtain rfl | hn := eq_or_ne n 0
  · simp [digitRow]
  · simp [digitRow, hn, Nat.length_digits r n hr hn]

/-- Leading zeros do not count in the value of a row (R106). -/
theorem ofDigits_drop_leadingZeros (r : Nat) (ds : List Nat) :
    Nat.ofDigits r (ds.drop (leadingZeros ds)).reverse = Nat.ofDigits r ds.reverse := by
  induction ds with
  | nil => rfl
  | cons d ds ih =>
    obtain rfl | hd := eq_or_ne d 0
    · rw [leadingZeros_zero_cons, List.drop_succ_cons, ih, Nat.ofDigits_reverse_zero_cons]
    · rw [leadingZeros_cons_of_ne hd, List.drop_zero]

/-- The value of a row is folded from its most significant digit (R6, R102). -/
theorem foldl_eq_ofDigits (r : Nat) (ds : List Nat) :
    ds.foldl (fun v d => r * v + d) 0 = Nat.ofDigits r ds.reverse := by
  rw [Nat.ofDigits_eq_foldr, List.foldr_reverse]
  simp [Nat.add_comm]

/-- Counting leading characters is counting leading zero digits, where the character is that of the digit 0. -/
theorem lz_eq_leadingZeros {f : Byte → Nat} {x : Byte} {s : List Byte} (h : ∀ c ∈ s, f c = 0 ↔ c = x) :
    lz s x = leadingZeros (s.map f) := by
  induction s with
  | nil => rfl
  | cons c s ih =>
    have hc := h c List.mem_cons_self
    rw [List.map_cons]
    by_cases hx : c = x
    · rw [hc.mpr hx, leadingZeros_zero_cons, ← ih fun e he => h e (List.mem_cons_of_mem c he)]
      simp [lz, hx]
    · rw [leadingZeros_cons_of_ne (mt hc.mp hx)]
      simp [lz, hx]

end Sys2Proof.Machine
end

section
/-! PROOFS. The codecs of 41_base58.md carry the pair of R100 across: the round trips (R103), the leading zeros, and
the lengths (R104, R106). -/

namespace Sys2Proof.Machine

/-- Two maps that undo each other on the elements of a list leave it as it is. -/
theorem map_map_cancel {α β : Type} {f : α → β} {g : β → α} {l : List α} (h : ∀ x ∈ l, g (f x) = x) :
    (l.map f).map g = l := by
  rw [List.map_map]
  exact (List.map_congr_left (g := id) h).trans (List.map_id l)

/-! ### Bytes as digits of radix 256 -/

theorem lz_bytes (b : List Byte) : lz b 0#8 = leadingZeros (b.map BitVec.toNat) :=
  lz_eq_leadingZeros fun c _ => by rw [← BitVec.toNat_inj]; rfl

theorem be_eq_ofDigits (b : List Byte) : be b = Nat.ofDigits 256 (b.map BitVec.toNat).reverse := by
  rw [← foldl_eq_ofDigits, List.foldl_map, be]

theorem toNat_lt_of_mem {b : List Byte} {d : Nat} (hd : d ∈ b.map BitVec.toNat) : d < 256 := by
  obtain ⟨x, -, rfl⟩ := List.mem_map.mp hd
  exact x.isLt

/-- Bytes are determined by their leading zeros and their value (R100). -/
theorem digitRow_bytes (b : List Byte) : digitRow 256 (lz b 0#8) (be b) = b.map BitVec.toNat := by
  rw [lz_bytes, be_eq_ofDigits, digitRow_of_row (by decide) fun d hd => toNat_lt_of_mem hd]

/-! ### Characters as digits of radix 58 (R70) -/

/-- The digit of a character of the alphabet; 0 for any other. -/
def digitOf (p : Params) (c : Byte) : Nat := (digitValue p c).getD 0

theorem value58_eq (p : Params) (t : List Byte) : value58 p t = Nat.ofDigits 58 (t.map (digitOf p)).reverse := rfl

theorem digitChar_of_lt (p : Params) {d : Nat} (hd : d < 58) : digitChar p d = p.alphabet[d] := by
  simp [digitChar, Nat.mod_eq_of_lt hd]

theorem digitChar_mem (p : Params) (d : Nat) : digitChar p d ∈ p.alphabet.toList :=
  Vector.mem_toList_iff.mpr (Vector.getElem_mem _)

/-- A character of the alphabet has a digit value, and is the character of it (R70). -/
theorem digitValue_of_mem {p : Params} {c : Byte} (hc : c ∈ p.alphabet.toList) :
    digitValue p c = some (digitOf p c) ∧ digitOf p c < 58 ∧ digitChar p (digitOf p c) = c := by
  cases h : digitValue p c with
  | none => exact absurd hc ((digitValue_eq_none_iff p c).mp h)
  | some d =>
    obtain ⟨hd, hchar⟩ := getElem_of_digitValue h
    rw [digitOf, h]
    exact ⟨rfl, hd, (digitChar_of_lt p hd).trans hchar⟩

/-- Distinct characters make every digit the digit of its character (R69). -/
theorem digitOf_digitChar {p : Params} (hp : p.wf = true) {d : Nat} (hd : d < 58) : digitOf p (digitChar p d) = d := by
  rw [digitOf, (digitValue_eq_some_iff hp _ hd).mpr (digitChar_of_lt p hd).symm]
  rfl

/-- The character of the digit 0 has the digit 0 in every alphabet, legal or not, since the search begins there. -/
theorem digitOf_digitChar_zero (p : Params) : digitOf p (digitChar p 0) = 0 := by
  simp [digitOf, digitValue, List.finRange_succ, digitChar]

theorem digitOf_eq_zero_iff {p : Params} {c : Byte} (hc : c ∈ p.alphabet.toList) :
    digitOf p c = 0 ↔ c = digitChar p 0 := by
  obtain ⟨-, -, hchar⟩ := digitValue_of_mem hc
  constructor
  · intro h
    rw [← hchar, h]
  · rintro rfl
    exact digitOf_digitChar_zero p

theorem lz_text {p : Params} {t : List Byte} (ht : IsText p t) :
    lz t (digitChar p 0) = leadingZeros (t.map (digitOf p)) :=
  lz_eq_leadingZeros fun c hc => digitOf_eq_zero_iff (ht c hc)

/-- A text is determined by its leading zero characters and its value (R100). -/
theorem digitRow_text {p : Params} {t : List Byte} (ht : IsText p t) :
    digitRow 58 (lz t (digitChar p 0)) (value58 p t) = t.map (digitOf p) := by
  rw [lz_text ht, value58_eq]
  refine digitRow_of_row (by decide) fun d hd => ?_
  obtain ⟨c, hc, rfl⟩ := List.mem_map.mp hd
  obtain ⟨-, hlt, -⟩ := digitValue_of_mem (ht c hc)
  exact hlt

/-! ### Encode and Decode (R100) as maps of rows of digits -/

theorem encodeBytes_eq (p : Params) (b : List Byte) :
    encodeBytes p b = (digitRow 58 (lz b 0#8) (be b)).map (digitChar p) := by
  simp [encodeBytes, digits58, digitRow]

theorem decodeText_eq (p : Params) (t : List Byte) :
    decodeText p t = (digitRow 256 (lz t (digitChar p 0)) (value58 p t)).map (BitVec.ofNat 8) := by
  simp [decodeText, digitRow]

theorem isText_encodeBytes (p : Params) (b : List Byte) : IsText p (encodeBytes p b) := by
  intro c hc
  rw [encodeBytes_eq] at hc
  obtain ⟨d, -, rfl⟩ := List.mem_map.mp hc
  exact digitChar_mem p d

/-- The digits of the text of `b` are the row it was written from. -/
theorem digits_encodeBytes {p : Params} (hp : p.wf = true) (b : List Byte) :
    (encodeBytes p b).map (digitOf p) = digitRow 58 (lz b 0#8) (be b) := by
  rw [encodeBytes_eq]
  exact map_map_cancel fun d hd => digitOf_digitChar hp (digitRow_lt (by decide) hd)

/-- The values of the bytes of `t` are the row they were written from. -/
theorem digits_decodeText (p : Params) (t : List Byte) :
    (decodeText p t).map BitVec.toNat = digitRow 256 (lz t (digitChar p 0)) (value58 p t) := by
  rw [decodeText_eq]
  exact map_map_cancel fun d hd => Nat.mod_eq_of_lt (digitRow_lt (by decide) hd)

/-- Encode carries the leading zeros across. -/
theorem lz_encodeBytes {p : Params} (hp : p.wf = true) (b : List Byte) :
    lz (encodeBytes p b) (digitChar p 0) = lz b 0#8 := by
  rw [lz_text (isText_encodeBytes p b), digits_encodeBytes hp, leadingZeros_digitRow]

/-- Encode carries the value across. -/
theorem value58_encodeBytes {p : Params} (hp : p.wf = true) (b : List Byte) :
    value58 p (encodeBytes p b) = be b := by
  rw [value58_eq, digits_encodeBytes hp, ofDigits_digitRow]

/-- Decode carries the leading zeros across. -/
theorem lz_decodeText (p : Params) (t : List Byte) : lz (decodeText p t) 0#8 = lz t (digitChar p 0) := by
  rw [lz_bytes, digits_decodeText, leadingZeros_digitRow]

/-- Decode carries the value across. -/
theorem be_decodeText (p : Params) (t : List Byte) : be (decodeText p t) = value58 p t := by
  rw [be_eq_ofDigits, digits_decodeText, ofDigits_digitRow]

/-- R103, law 1, on the closed forms. -/
theorem decodeText_encodeBytes {p : Params} (hp : p.wf = true) (b : List Byte) :
    decodeText p (encodeBytes p b) = b := by
  rw [decodeText_eq, lz_encodeBytes hp, value58_encodeBytes hp, digitRow_bytes]
  exact map_map_cancel fun x _ => BitVec.ofNat_toNat 8 x

/-- R103, law 2, on the closed forms. -/
theorem encodeBytes_decodeText {p : Params} {t : List Byte} (ht : IsText p t) : encodeBytes p (decodeText p t) = t := by
  rw [encodeBytes_eq, lz_decodeText, be_decodeText, digitRow_text ht]
  refine map_map_cancel fun c hc => ?_
  obtain ⟨-, -, hchar⟩ := digitValue_of_mem (ht c hc)
  exact hchar

/-! ### The pseudocode of `B58DEC` is Decode (R102) -/

/-- A text has the digit values of its characters (R102). -/
theorem digitValues_of_isText {p : Params} {t : List Byte} (ht : IsText p t) :
    digitValues p t = some (t.map (digitOf p)) := by
  induction t with
  | nil => rfl
  | cons c t ih =>
    obtain ⟨hc, ht⟩ := List.forall_mem_cons.mp ht
    obtain ⟨hdigit, -, -⟩ := digitValue_of_mem hc
    rw [digitValues, hdigit, ih ht]
    rfl

/-- One character outside the alphabet, wherever it stands, leaves no digit values (R102). -/
theorem digitValues_of_not_isText {p : Params} {t : List Byte} (ht : ¬ IsText p t) : digitValues p t = none := by
  induction t with
  | nil => exact absurd (List.forall_mem_nil _) ht
  | cons c t ih =>
    rw [digitValues]
    by_cases hc : c ∈ p.alphabet.toList
    · rw [ih fun hrest => ht (List.forall_mem_cons.mpr ⟨hc, hrest⟩)]
      cases digitValue p c <;> rfl
    · rw [(digitValue_eq_none_iff p c).mpr hc]

theorem foldDigits_eq (ds : List Nat) : foldDigits ds = Nat.ofDigits 58 ds.reverse := by
  rw [← foldl_eq_ofDigits, foldDigits]
  simp only [radix, Nat.mul_comm]

/-- Where the test of the alphabet passes, the fold over the digits after the leading zeros gives Decode (R102). -/
theorem base58Bytes_of_isText {p : Params} {t : List Byte} (ht : IsText p t) :
    base58Bytes p t = some (decodeText p t) := by
  have hvalue : foldDigits ((t.map (digitOf p)).drop (lz t (digitChar p 0))) = value58 p t := by
    rw [foldDigits_eq, lz_text ht, ofDigits_drop_leadingZeros, value58_eq]
  simp only [base58Bytes, digitValues_of_isText ht, hvalue, minbytes_eq, decodeText]

theorem base58Bytes_of_not_isText {p : Params} {t : List Byte} (ht : ¬ IsText p t) : base58Bytes p t = none := by
  rw [base58Bytes, digitValues_of_not_isText ht]

/-! ### The statements about the codecs -/

/-- Settles O38. -/
theorem base58DecodeOfEncode : Obligations.Base58DecodeOfEncode := by
  intro p b hp
  rw [base58Text_eq, base58Bytes_of_isText (isText_encodeBytes p b), decodeText_encodeBytes hp]

/-- Settles O39, with the bytes of Decode. -/
theorem base58EncodeOfDecode : Obligations.Base58EncodeOfDecode := fun p t _ ht =>
  ⟨decodeText p t, base58Bytes_of_isText ht, by rw [base58Text_eq, encodeBytes_decodeText ht]⟩

/-- Settles O40. -/
theorem leadingZerosArePreserved : Obligations.LeadingZerosArePreserved := fun p b hp => by
  rw [base58Text_eq, lz_encodeBytes hp]

/-- Settles O42: both results are maps of rows of digits. -/
theorem base58Lengths : Obligations.Base58Lengths := by
  refine fun p => ⟨fun b => ?_, fun t => ?_⟩
  · rw [encodeBytes_eq, List.length_map, digitRow_length (by decide)]
  · rw [decodeText_eq, List.length_map, digitRow_length (by decide)]

theorem be_drop_lz (b : List Byte) : be (b.drop (lz b 0#8)) = be b := by
  rw [be_eq_ofDigits, List.map_drop, lz_bytes, ofDigits_drop_leadingZeros, ← be_eq_ofDigits]

/-- Settles O43. -/
theorem leadingZerosDoNotCount : Obligations.LeadingZerosDoNotCount := by
  refine ⟨fun p t ds hds => ?_, fun b => (be_drop_lz b).symm⟩
  by_cases ht : IsText p t
  · rw [digitValues_of_isText ht, Option.some_inj] at hds
    subst hds
    rw [lz_text ht, foldDigits_eq, foldDigits_eq, ofDigits_drop_leadingZeros]
  · rw [digitValues_of_not_isText ht] at hds
    cases hds

end Sys2Proof.Machine
end

section
/-! PROOFS. The statements of 41_base58.md about `B58ENC` and `B58DEC` in the block: their closed forms (R101, R102),
the round trip between `BUF` and `CHR` (R103), and the capacity of the default build (R104). -/

namespace Sys2Proof.Machine

/-! ### Result, frame and completion (R101, R102) -/

/-- Settles O36. -/
theorem b58encWritesTheText : Obligations.B58encWritesTheText := by
  rintro s text rfl
  have htext : base58Text s.cfg (validBytes s.blk) = encodeBytes s.cfg (s.blk.buf.take s.blk.blen.toNat) :=
    base58Text_eq ..
  rw [exec_eq, commitOf]
  obtain ⟨hlong, hcommit⟩ | ⟨hfits, hcommit⟩ := b58encCommit_cases s.cfg s.blk <;> rw [hcommit]
  · rw [htext] at hlong
    exact ⟨fun _ hfits => absurd hfits (not_le.mpr hlong), fun _ => rfl⟩
  · rw [htext] at hfits
    rw [htext]
    refine ⟨fun ⟨_, _, hchr, _⟩ _ => ?_, fun hlong => absurd hfits (not_le.mpr hlong)⟩
    rw [overwrite_eq (hchr ▸ hfits)]
    rfl

/-- Settles O37. -/
theorem b58decWritesTheBytes : Obligations.B58decWritesTheBytes := by
  rintro s text bytes rfl rfl
  rw [exec_eq, commitOf]
  obtain ⟨hnone, hcommit⟩ | ⟨bs, hsome, hrest⟩ := b58decCommit_cases s.cfg s.blk
  · have ht : ¬ IsText s.cfg (s.blk.chr.take s.blk.clen.toNat) := by
      intro ht
      rw [validChars, base58Bytes_of_isText ht] at hnone
      cases hnone
    rw [hcommit]
    exact ⟨fun _ h => absurd h ht, fun _ => rfl, fun h => absurd h ht⟩
  · have ht : IsText s.cfg (s.blk.chr.take s.blk.clen.toNat) := by
      by_contra ht
      rw [validChars, base58Bytes_of_not_isText ht] at hsome
      cases hsome
    rw [validChars, base58Bytes_of_isText ht, Option.some_inj] at hsome
    subst hsome
    obtain ⟨hlong, hcommit⟩ | ⟨hfits, hcommit⟩ := hrest <;> rw [hcommit]
    · exact ⟨fun _ _ hfits => absurd hfits (not_le.mpr hlong), fun h => absurd ht h, fun _ _ => rfl⟩
    · refine ⟨fun ⟨_, hbuf, _⟩ _ _ => ?_, fun h => absurd ht h, fun _ hlong => absurd hfits (not_le.mpr hlong)⟩
      rw [overwrite_eq (hbuf ▸ hfits)]
      rfl

/-! ### The round trip in the block (R103) -/

/-- What was written to the front of a buffer is its valid part afterwards. -/
theorem take_written {xs rest : List Byte} (h : xs.length ≤ 64) :
    (xs ++ rest).take (BitVec.ofNat 7 xs.length).toNat = xs := by
  rw [BitVec.toNat_ofNat, Nat.mod_eq_of_lt (by omega), List.take_left]

/-- Writing a buffer's valid part over its front changes neither the buffer nor its length register. -/
theorem valid_rewritten {n : BitVec 7} {xs : List Byte} (h : n.toNat ≤ xs.length) :
    xs.take n.toNat ++ xs.drop (xs.take n.toNat).length = xs ∧ BitVec.ofNat 7 (xs.take n.toNat).length = n := by
  rw [List.length_take_of_le h]
  exact ⟨List.take_append_drop _ _, by simp⟩

/-- A `B58ENC` that ends with `ERR` 0 found room for its text. -/
theorem fits_of_b58enc {s t : State} (hexec : exec .b58enc s = .next t) (herr : t.blk.err = 0#4) :
    (encodeBytes s.cfg (s.blk.buf.take s.blk.blen.toNat)).length ≤ s.cfg.nc := by
  by_contra hlong
  rw [(b58encWritesTheText s _ rfl).2 (not_le.mp hlong), step_next_eq] at hexec
  subst hexec
  exact OpError.code_ne_zero .capacityError herr

/-- A `B58DEC` that ends with `ERR` 0 had a text, and room for its bytes. -/
theorem fits_of_b58dec {s t : State} (hexec : exec .b58dec s = .next t) (herr : t.blk.err = 0#4) :
    IsText s.cfg (s.blk.chr.take s.blk.clen.toNat) ∧
      (decodeText s.cfg (s.blk.chr.take s.blk.clen.toNat)).length ≤ s.cfg.nb := by
  obtain ⟨-, hnotText, hlong⟩ := b58decWritesTheBytes s _ _ rfl rfl
  by_cases ht : IsText s.cfg (s.blk.chr.take s.blk.clen.toNat)
  · refine ⟨ht, ?_⟩
    by_contra hlen
    rw [hlong ht (not_le.mp hlen), step_next_eq] at hexec
    subst hexec
    exact OpError.code_ne_zero .capacityError herr
  · rw [hnotText ht, step_next_eq] at hexec
    subst hexec
    exact absurd herr (OpError.code_ne_zero .decodeError)

theorem b58dec_undoes_b58enc {s t : State} (hwf : s.wf) (hexec : exec .b58enc s = .next t) (herr : t.blk.err = 0#4) :
    ∃ u, exec .b58dec t = .next u ∧ u.blk.err = 0#4 ∧ u.blk.buf = s.blk.buf ∧ u.blk.blen = s.blk.blen := by
  have ⟨hp, hbuf, _, hblen, _⟩ := hwf
  have hfits := fits_of_b58enc hexec herr
  have hresult := (b58encWritesTheText s _ rfl).1 hwf hfits
  rw [hexec, step_next_eq] at hresult
  have hcfg : t.cfg = s.cfg := by rw [hresult]
  have htext : t.blk.chr.take t.blk.clen.toNat = encodeBytes t.cfg (s.blk.buf.take s.blk.blen.toNat) := by
    rw [hresult]
    exact take_written (hfits.trans (capacities_le hp).2)
  have hbytes := decodeText_encodeBytes (hcfg ▸ hp) (s.blk.buf.take s.blk.blen.toNat)
  have hroom : (s.blk.buf.take s.blk.blen.toNat).length ≤ t.cfg.nb :=
    hcfg ▸ (List.length_take_le _ _).trans hblen
  have hdec := (b58decWritesTheBytes t _ _ htext.symm hbytes.symm).1 (exec_wf hexec hwf) (isText_encodeBytes _ _) hroom
  obtain ⟨hsame, hlen⟩ := valid_rewritten (hbuf.symm ▸ hblen)
  exact ⟨_, hdec, rfl, by rw [hresult]; exact hsame, hlen⟩

theorem b58enc_undoes_b58dec {s t : State} (hwf : s.wf) (hexec : exec .b58dec s = .next t) (herr : t.blk.err = 0#4) :
    ∃ u, exec .b58enc t = .next u ∧ u.blk.err = 0#4 ∧ u.blk.chr = s.blk.chr ∧ u.blk.clen = s.blk.clen := by
  have ⟨hp, _, hchr, _, hclen⟩ := hwf
  obtain ⟨ht, hfits⟩ := fits_of_b58dec hexec herr
  have hresult := (b58decWritesTheBytes s _ _ rfl rfl).1 hwf ht hfits
  rw [hexec, step_next_eq] at hresult
  have hcfg : t.cfg = s.cfg := by rw [hresult]
  have hbytes : t.blk.buf.take t.blk.blen.toNat = decodeText s.cfg (s.blk.chr.take s.blk.clen.toNat) := by
    rw [hresult]
    exact take_written (hfits.trans (capacities_le hp).1)
  have htext : s.blk.chr.take s.blk.clen.toNat = encodeBytes t.cfg (t.blk.buf.take t.blk.blen.toNat) := by
    rw [hbytes, hcfg, encodeBytes_decodeText ht]
  have hroom : (s.blk.chr.take s.blk.clen.toNat).length ≤ t.cfg.nc :=
    hcfg ▸ (List.length_take_le _ _).trans hclen
  have henc := (b58encWritesTheText t _ htext).1 (exec_wf hexec hwf) hroom
  obtain ⟨hsame, hlen⟩ := valid_rewritten (hchr.symm ▸ hclen)
  exact ⟨_, henc, rfl, by rw [hresult]; exact hsame, hlen⟩

/-- Settles O41. -/
theorem base58RoundTripInTheBlock : Obligations.Base58RoundTripInTheBlock := fun _ _ hwf herr =>
  ⟨fun hexec => b58dec_undoes_b58enc hwf hexec herr, fun hexec => b58enc_undoes_b58dec hwf hexec herr⟩

/-! ### The capacity of the default build (R104) -/

theorem be_lt_pow (b : List Byte) : be b < 256 ^ b.length := by
  have h := joinBits_lt b
  rwa [← be_eq_joinBits, pow_mul] at h

/-- Up to 24 bytes, writing a number in radix 58 takes at most nine digits more than in radix 256. -/
theorem pow256_le_pow58 : ∀ k ≤ 24, 256 ^ k ≤ 58 ^ (k + 9) := by decide

/-- The bytes after the leading zeros give at most nine characters more than they are, and each leading zero gives
one. -/
theorem encodeBytes_length_le {p : Params} {b : List Byte} (h : b.length ≤ 24) : (encodeBytes p b).length ≤ 33 := by
  have hlz : lz b 0#8 ≤ b.length := (List.takeWhile_sublist _).length_le
  have hvalue : be b < 58 ^ (b.length - lz b 0#8 + 9) := by
    rw [← be_drop_lz, ← List.length_drop]
    exact (be_lt_pow _).trans_le (pow256_le_pow58 _ (by rw [List.length_drop]; omega))
  have hdigits := (Nat.digits_length_le_iff (by decide) _).mpr hvalue
  simp only [encodeBytes, digits58, List.length_append, List.length_replicate, List.length_map, List.length_reverse]
  omega

/-- Settles O44. -/
theorem defaultB58encAlwaysFits : Obligations.DefaultB58encAlwaysFits := by
  intro s hwf hnb hnc
  have ⟨_, _, _, hblen, _⟩ := hwf
  have hlen : (s.blk.buf.take s.blk.blen.toNat).length ≤ 24 := (List.length_take_le _ _).trans (hblen.trans hnb)
  exact ⟨_, (b58encWritesTheText s _ rfl).1 hwf ((encodeBytes_length_le hlen).trans hnc), rfl⟩

end Sys2Proof.Machine
end

section
/-! PROOFS. The statements of 60_exceptions.md: what clears `HERR` (R127), and the errors of the operations (R122,
R124). -/

namespace Sys2Proof.Machine

/-! ### `HERR` is sticky (R127) -/

/-- Of the register writes only that of 2 to `STATUS` clears `HERR`. -/
theorem writeReg_clears_herr_iff {b : Block} (hb : b.herr = true) (r : Reg) (v : Word) :
    (writeReg r v b).herr = false ↔ r = .status ∧ v = 2#32 := by
  by_cases hr : r = .status
  · subst hr
    by_cases hv : v = 2#32 <;> simp [writeReg, hv, hb]
  · simp [writeReg_herr hr, hr, hb]

/-- No commit writes `HERR` (R27). -/
@[simp] theorem commitOf_herr (p : Params) (b : Block) (i : Instr) : (commitOf p b i).herr = b.herr := by
  obtain ⟨-, hherr, -⟩ := commitOf_commitFrame p b i
  exact hherr

/-- Where `HERR` falls, reset was asserted or the host wrote 2 to `STATUS` of the idle block. -/
theorem BlockMove.herr_falls {s t : State} (m : BlockMove s t) (hs : s.blk.herr = true) (ht : t.blk.herr = false) :
    nextTurn s = .assertReset ∨
      (nextTurn s = .host ∧ s.idle ∧ ∃ rest, s.program = .wr statusAddr 2#32 :: rest) := by
  cases m with
  | assertReset hturn _ _ => exact .inl hturn
  | write hturn hidle a v rest r hprog hreg _ hblk _ =>
    rw [hblk] at ht
    obtain ⟨rfl, rfl⟩ := (writeReg_clears_herr_iff hs r v).mp ht
    obtain ⟨-, rfl⟩ := of_regAt hreg
    exact .inr ⟨hturn, hidle, rest, hprog⟩
  | quiet _ hblk _ => simp [hblk, hs] at ht
  | mark _ _ hblk _ => simp [hblk] at ht
  | commit _ _ _ hblk _ => simp [hblk, hs] at ht
  | releaseReset _ hblk _ => simp [hblk, hs] at ht

theorem step_of_assertReset {s : State} (h : nextTurn s = .assertReset) : step s = .next s.popTurn.assertReset := by
  rw [step, h]
  rfl

/-- Settles O21: the moves that can clear `HERR`, and that each of the two does. -/
theorem herrIsSticky : Obligations.HerrIsSticky := by
  refine fun s t hs hstep => ⟨(step_blockMove hstep).herr_falls hs, ?_⟩
  rintro (hturn | ⟨hturn, hidle, rest, hprog⟩)
  · rw [step_of_assertReset hturn, step_next_eq] at hstep
    subst hstep
    rfl
  · rw [idleWritesToStatus s 2#32 rest hturn hidle hprog, step_next_eq, if_pos rfl] at hstep
    subst hstep
    rfl

/-! ### An operation that ends with an error (R124) -/

/-- An operation ends by `raise`, from the block as it was, or with code 0. -/
theorem commitOf_raises_or_err_eq_zero (p : Params) (b : Block) (i : Instr) :
    (∃ e, commitOf p b i = b.raise e) ∨ (commitOf p b i).err = 0#4 := by
  cases i with
  | mnenc =>
    obtain ⟨-, h⟩ | ⟨-, h⟩ := mnencCommit_cases b
    · exact .inl ⟨_, h⟩
    · exact .inr (congrArg Block.err h)
  | mndec =>
    obtain ⟨-, h⟩ | ⟨-, h⟩ := mndecCommit_cases b
    · exact .inl ⟨_, h⟩
    · exact .inr (congrArg Block.err h)
  | b58enc =>
    obtain ⟨-, h⟩ | ⟨-, h⟩ := b58encCommit_cases p b
    · exact .inl ⟨_, h⟩
    · exact .inr (congrArg Block.err h)
  | b58dec =>
    obtain ⟨-, h⟩ | ⟨bs, -, ⟨-, h⟩ | ⟨-, h⟩⟩ := b58decCommit_cases p b
    · exact .inl ⟨_, h⟩
    · exact .inl ⟨_, h⟩
    · exact .inr (congrArg Block.err h)

/-- Settles O45: `raise` writes `ERR` and `BUSY` only. -/
theorem failedOperationChangesNothingElse : Obligations.FailedOperationChangesNothingElse := by
  intro i s t hexec herr
  rw [exec_eq, step_next_eq] at hexec
  subst hexec
  obtain ⟨e, hraise⟩ | hzero := commitOf_raises_or_err_eq_zero s.cfg s.blk i
  · rw [hraise]
    rfl
  · exact absurd hzero herr

/-! ### The code that each operation ends with (R122) -/

theorem mnencCommit_err_cases (b : Block) :
    ((mnencCommit b).err = 0#4 ∧ b.blen = 17#7) ∨ ((mnencCommit b).err = 1#4 ∧ b.blen ≠ 17#7) := by
  obtain ⟨hlen, h⟩ | ⟨hlen, h⟩ := mnencCommit_cases b <;> rw [h]
  · exact .inr ⟨rfl, fun hb => hlen (congrArg BitVec.toNat hb)⟩
  · exact .inl ⟨rfl, BitVec.eq_of_toNat_eq hlen⟩

/-- The test of the leftover adds no code to that of the count (R85). -/
theorem mndecCommit_err_cases (b : Block) :
    ((mndecCommit b).err = 0#4 ∧ b.scnt = 12#4) ∨ ((mndecCommit b).err = 1#4 ∧ b.scnt ≠ 12#4) := by
  obtain ⟨hcount, h⟩ | ⟨hcount, h⟩ := mndecCommit_cases b <;> rw [h]
  · exact .inr ⟨rfl, fun hb => hcount (congrArg BitVec.toNat hb)⟩
  · exact .inl ⟨rfl, BitVec.eq_of_toNat_eq hcount⟩

theorem b58encCommit_err_cases (p : Params) (b : Block) :
    ((b58encCommit p b).err = 0#4 ∧ (encodeBytes p (validBytes b)).length ≤ p.nc) ∨
    ((b58encCommit p b).err = 5#4 ∧ p.nc < (encodeBytes p (validBytes b)).length) := by
  rw [← base58Text_eq]
  obtain ⟨hlong, h⟩ | ⟨hfits, h⟩ := b58encCommit_cases p b <;> rw [h]
  · exact .inr ⟨rfl, hlong⟩
  · exact .inl ⟨rfl, hfits⟩

/-- The pseudocode of `B58DEC` answers no bytes exactly outside the domain of Decode (R100, R102). -/
theorem base58Bytes_eq_none_iff (p : Params) (t : List Byte) : base58Bytes p t = none ↔ ¬ IsText p t := by
  refine ⟨fun hnone ht => ?_, base58Bytes_of_not_isText⟩
  rw [base58Bytes_of_isText ht] at hnone
  cases hnone

/-- The bytes that the pseudocode of `B58DEC` answers are those of Decode (R100, R102). -/
theorem base58Bytes_eq_some_iff (p : Params) (t bs : List Byte) :
    base58Bytes p t = some bs ↔ IsText p t ∧ decodeText p t = bs := by
  by_cases ht : IsText p t
  · rw [base58Bytes_of_isText ht, Option.some_inj, and_iff_right ht]
  · rw [base58Bytes_of_not_isText ht]
    exact iff_of_false nofun fun ⟨h, _⟩ => ht h

theorem b58decCommit_err_cases (p : Params) (b : Block) :
    ((b58decCommit p b).err = 0#4 ∧ IsText p (validChars b) ∧ (decodeText p (validChars b)).length ≤ p.nb) ∨
    ((b58decCommit p b).err = 4#4 ∧ ¬ IsText p (validChars b)) ∨
    ((b58decCommit p b).err = 5#4 ∧ IsText p (validChars b) ∧ p.nb < (decodeText p (validChars b)).length) := by
  obtain ⟨hnone, h⟩ | ⟨bs, hsome, hrest⟩ := b58decCommit_cases p b
  · rw [h]
    exact .inr (.inl ⟨rfl, (base58Bytes_eq_none_iff _ _).mp hnone⟩)
  · obtain ⟨ht, rfl⟩ := (base58Bytes_eq_some_iff _ _ _).mp hsome
    obtain ⟨hlong, h⟩ | ⟨hfits, h⟩ := hrest <;> rw [h]
    · exact .inr (.inr ⟨rfl, ht, hlong⟩)
    · exact .inl ⟨rfl, ht, hfits⟩

/-- Settles O46, by the cases of each commit. -/
theorem errorCodesOfEachOperation : Obligations.ErrorCodesOfEachOperation := by
  intro s t
  simp only [exec_eq, step_next_eq]
  refine ⟨?_, ?_, ?_, ?_⟩ <;> rintro rfl
  · exact mnencCommit_err_cases s.blk
  · exact mndecCommit_err_cases s.blk
  · exact b58encCommit_err_cases s.cfg s.blk
  · exact b58decCommit_err_cases s.cfg s.blk

end Sys2Proof.Machine
end

section
/-! PROOFS. The statements of 70_reset_and_hazards.md about single steps: no state is stuck (R151), what changes `ACC`
and `CNT` (R148), and reset (R140, R141). -/

namespace Sys2Proof.Machine

theorem step_of_releaseReset {s : State} (h : nextTurn s = .releaseReset) :
    step s = .next s.popTurn.releaseReset := by
  rw [step, h]
  rfl

/-- Settles O52: only a latch that names no command could stop the engine, and the invariant shuts it out. -/
theorem noStateIsStuck : Obligations.NoStateIsStuck := by
  rintro s ⟨-, -, hlatch, -⟩
  cases hturn : nextTurn s with
  | host => exact ⟨_, step_of_host hturn⟩
  | engine =>
    cases hb : s.blk.busy with
    | false => exact ⟨_, step_of_engine_idle hturn hb⟩
    | true =>
      obtain ⟨i, hi⟩ := Option.isSome_iff_exists.mp (hlatch hb)
      exact ⟨_, step_of_engine hturn hb hi⟩
  | assertReset => exact ⟨_, step_of_assertReset hturn⟩
  | releaseReset => exact ⟨_, step_of_releaseReset hturn⟩

/-- A commit that changes the residue is one of the mnemonic operations: R27 has the base-58 columns blank there. -/
theorem commitOf_changes_residue {p : Params} {b : Block} {i : Instr}
    (h : (commitOf p b i).acc ≠ b.acc ∨ (commitOf p b i).cnt ≠ b.cnt) : i = .mnenc ∨ i = .mndec := by
  obtain ⟨-, -, -, -, -, -, hkeep⟩ := commitOf_commitFrame p b i
  have absurd_of_base58 (hb58 : i = .b58enc ∨ i = .b58dec) : False := by
    obtain ⟨hacc, hcnt⟩ := hkeep hb58
    exact h.elim (· hacc) (· hcnt)
  cases i with
  | mnenc => exact .inl rfl
  | mndec => exact .inr rfl
  | b58enc => exact (absurd_of_base58 (.inl rfl)).elim
  | b58dec => exact (absurd_of_base58 (.inr rfl)).elim

/-- Settles O24: of the moves of the block only a reset and the commits of `MNENC` and `MNDEC` reach `ACC` or `CNT`. -/
theorem accAndCntAreWrittenOnlyByMnemonics : Obligations.AccAndCntAreWrittenOnlyByMnemonics := by
  intro s t hstep hchange
  cases step_blockMove hstep with
  | assertReset hturn _ _ => exact .inl hturn
  | commit hturn hbusy hlatch hblk _ =>
    rw [hblk] at hchange
    rw [hlatch, Option.some_inj, Option.some_inj]
    exact .inr ⟨hturn, hbusy, commitOf_changes_residue hchange⟩
  | quiet _ hblk _ => simp [hblk] at hchange
  | mark _ _ hblk _ => simp [hblk] at hchange
  | write _ _ _ _ _ _ _ _ _ hblk _ => simp [hblk] at hchange
  | releaseReset _ hblk _ => simp [hblk] at hchange

/-- Settles O29: the two turns of the reset line, the accesses under reset, and the engine's turn on the reset block,
which is idle. -/
theorem resetAbandonsAndHolds : Obligations.ResetAbandonsAndHolds := by
  refine fun s => ⟨step_of_assertReset, step_of_releaseReset, fun hturn hr => ⟨?_, ?_⟩, fun hturn hblk => ?_⟩
  · intro a rest hprog
    refine ⟨Config.anyRead s.draws, s.draws + 1, ?_⟩
    rw [step_of_hostRead hturn hprog, hostRead_of_reset (s := s.popTurn) hr]
    rfl
  · intro a v rest hprog
    rw [step_of_hostWrite hturn hprog, hostWrite_of_reset (s := s.popTurn) hr]
  · exact step_of_engine_idle hturn (congrArg Block.busy hblk)

end Sys2Proof.Machine
end

section
/-! PROOFS. The statements of 70_reset_and_hazards.md about how runs end: a started operation commits, and every host
program comes to its end (R147, R151). -/

namespace Sys2Proof.Machine

/-! ### A started operation commits (R147) -/

theorem nextTurn_of_busy {s : State} (hb : s.blk.busy = true) (hturns : s.turns = []) : nextTurn s = .engine := by
  simp [nextTurn, hturns, hb]

/-- A started operation commits its operands as they stand: no turn before the commit changes more than `HERR`, and the
commit comes at the latest when the listed turns are used up (log entry 5). -/
theorem commits_within_turns {s : State} {i : Instr} (hb : s.blk.busy = true) (hi : latchedInstr s.blk.opl = some i)
    (hno : s.noReset) : ∃ k t, k ≤ s.turns.length + 1 ∧ runFor k s = .next t ∧
      t.blk = (commitOf s.cfg s.blk i).withHerr t.blk.herr := by
  induction hts : s.turns generalizing s with
  | nil =>
    exact ⟨1, _, by simp, runFor_succ (step_of_engine (nextTurn_of_busy hb hts) hb hi) 0, rfl⟩
  | cons u ts ih =>
    have hturn : nextTurn s = u := nextTurn_of_turns hts
    have htail : s.popTurn.turns = ts := congrArg List.tail hts
    have hno' := noReset_popTurn hno
    cases u with
    | host =>
      obtain ⟨herr, hblk⟩ := hostMove_blk_of_busy (s := s.popTurn) hb
      have hturns := hostMove_turns s.popTurn
      obtain ⟨k, t, hk, hrun, htblk⟩ := ih (s := hostMove s.popTurn) (by rwa [hblk]) (by rwa [hblk])
        (by rwa [State.noReset, hturns]) (hturns.trans htail)
      rw [hblk, hostMove_cfg, State.popTurn_cfg, State.popTurn_blk, commitOf_withHerr] at htblk
      exact ⟨k + 1, t, by simpa using hk, (runFor_succ (step_of_host hturn) k).trans hrun, htblk⟩
    | engine => exact ⟨1, _, by simp, runFor_succ (step_of_engine hturn hb hi) 0, rfl⟩
    | releaseReset =>
      obtain ⟨k, t, hk, hrun, htblk⟩ := ih (s := s.popTurn.releaseReset) hb hi hno' htail
      exact ⟨k + 1, t, by simpa using hk, (runFor_succ (step_of_releaseReset hturn) k).trans hrun, htblk⟩
    | assertReset => exact absurd (hts ▸ List.mem_cons_self) hno

/-- Settles O54: `exec` at the start is the commit of the block as it stands there. -/
theorem startedOperationsCommit : Obligations.StartedOperationsCommit := by
  rintro s ⟨-, -, hlatch, -⟩ hb hno
  obtain ⟨i, hi⟩ := Option.isSome_iff_exists.mp (hlatch hb)
  obtain ⟨k, t, hk, hrun, hblk⟩ := commits_within_turns hb hi hno
  exact ⟨k, i, _, t, hk, hi, exec_eq i s, hrun, hblk⟩

/-! ### Runs without a reset -/

/-- Every step strikes off its turn. -/
theorem step_turns {s t : State} (h : step s = .next t) : t.turns = s.turns.tail := by
  obtain ⟨-, rfl⟩ | ⟨-, -, rfl⟩ | ⟨-, -, i, -, rfl⟩ | ⟨-, rfl⟩ | ⟨-, rfl⟩ := step_cases h <;> simp

theorem noReset_of_step {s t : State} (hno : s.noReset) (h : step s = .next t) : t.noReset := by
  rw [State.noReset, step_turns h]
  exact noReset_popTurn hno

theorem nextTurn_ne_assertReset {s : State} (hno : s.noReset) : nextTurn s ≠ .assertReset := by
  cases hts : s.turns with
  | nil => cases hb : s.blk.busy <;> simp [nextTurn, hts, hb]
  | cons u ts =>
    rw [nextTurn_of_turns hts]
    rintro rfl
    exact hno (hts ▸ List.mem_cons_self)

/-- Reset stays released where none is listed. -/
theorem released_of_step {s t : State} (hr : s.rstN = true) (hno : s.noReset) (h : step s = .next t) :
    t.rstN = true := by
  cases step_blockMove h with
  | assertReset hturn _ _ => exact absurd hturn (nextTurn_ne_assertReset hno)
  | releaseReset _ _ hrst => exact hrst
  | quiet _ _ hrst | mark _ _ _ hrst | write _ _ _ _ _ _ _ _ _ _ hrst | commit _ _ _ _ hrst => exact hrst.trans hr

/-! ### Every run without a reset comes to its end (R147, R151) -/

theorem hostMove_of_rd {s : State} {a : Addr} {rest : List HostOp} (hprog : s.program = .rd a :: rest) :
    hostMove s = { hostRead a s with program := rest } := by
  rw [hostMove, hprog]

theorem hostMove_of_wr {s : State} {a : Addr} {v : Word} {rest : List HostOp} (hprog : s.program = .wr a v :: rest) :
    hostMove s = { hostWrite a v s with program := rest } := by
  rw [hostMove, hprog]

/-- On an idle block the host's next access is made and done, a `WAIT` too. -/
theorem hostMove_program_of_idle {s : State} {op : HostOp} {rest : List HostOp} (hidle : s.idle)
    (hprog : s.program = op :: rest) : (hostMove s).program = rest := by
  cases op with
  | rd a => rw [hostMove_of_rd hprog]
  | wr a v => rw [hostMove_of_wr hprog]
  | wait =>
    rw [hostMove_of_wait hidle.1 hprog, hidle.2]
    rfl

theorem hostMove_program_length_le (s : State) : (hostMove s).program.length ≤ s.program.length := by
  obtain ⟨-, h⟩ | ⟨a, rest, hp, h⟩ | ⟨a, v, rest, hp, h⟩ | ⟨rest, hp, ⟨-, h⟩ | ⟨-, h⟩⟩ := hostMove_cases s
  · rw [h]
  · simp [h, hp]
  · simp [h, hp]
  · simp [h, hp]
  · rw [h, hostRead_program]

theorem step_program_length_le {s t : State} (h : step s = .next t) : t.program.length ≤ s.program.length := by
  obtain ⟨-, rfl⟩ | ⟨-, -, rfl⟩ | ⟨-, -, i, -, rfl⟩ | ⟨-, rfl⟩ | ⟨-, rfl⟩ := step_cases h
  · exact hostMove_program_length_le s.popTurn
  all_goals exact le_rfl

/-- A bound on the steps that are left: each turn and each access counts for two, since an access may start an
operation, whose commit is one more step. -/
def State.stepsLeft (s : State) : Nat := 2 * s.turns.length + 2 * s.program.length + s.blk.busy.toNat

/-- With turns listed the step uses one up. With none it is the commit of the started operation, or an access to the
idle block, which no `WAIT` can hold up. -/
theorem stepsLeft_lt_of_step {s t : State} (hinv : RunInv s) (hr : s.rstN = true) (hover : ¬ s.over)
    (hstep : step s = .next t) : t.stepsLeft < s.stepsLeft := by
  have hprogram := step_program_length_le hstep
  have hbusy := Bool.toNat_le t.blk.busy
  unfold State.stepsLeft
  rw [step_turns hstep]
  cases hts : s.turns with
  | cons u ts =>
    rw [List.tail_cons, List.length_cons]
    omega
  | nil =>
    cases hb : s.blk.busy with
    | true =>
      obtain ⟨-, -, hlatch, -⟩ := hinv
      obtain ⟨i, hi⟩ := Option.isSome_iff_exists.mp (hlatch hb)
      rw [step_of_engine (nextTurn_of_busy hb hts) hb hi, step_next_eq] at hstep
      subst hstep
      simp
    | false =>
      obtain ⟨op, rest, hprog⟩ := List.exists_cons_of_ne_nil fun hnil => hover ⟨hnil, hb⟩
      rw [step_of_host (nextTurn_of_idle ⟨hr, hb⟩ hts), step_next_eq] at hstep
      have hrest : t.program = rest := hstep ▸ hostMove_program_of_idle (s := s.popTurn) ⟨hr, hb⟩ hprog
      simp only [hrest, hprog, List.length_cons, List.tail_nil, Bool.toNat_false]
      omega

/-- Every run without a reset comes to its end, whether or not the host keeps R143 (R151). -/
theorem run_ends {s : State} (hinv : RunInv s) (hr : s.rstN = true) (hno : s.noReset) :
    ∃ k t, runFor k s = .next t ∧ t.over := by
  induction hn : s.stepsLeft using Nat.strong_induction_on generalizing s with
  | _ n ih =>
    by_cases hover : s.over
    · exact ⟨0, s, rfl, hover⟩
    · obtain ⟨t, hstep⟩ := noStateIsStuck s hinv
      obtain ⟨k, u, hrun, hu⟩ := ih t.stepsLeft (hn ▸ stepsLeft_lt_of_step hinv hr hover hstep)
        (everyStepKeepsTheInvariant s t hinv hstep) (released_of_step hr hno hstep) (noReset_of_step hno hstep) rfl
      exact ⟨k + 1, u, (runFor_succ hstep k).trans hrun, hu⟩

/-- Settles O57: the run ends whatever the program, so a disciplined one's does too. -/
theorem disciplinedProgramsEnd : Obligations.DisciplinedProgramsEnd := fun _ hinv hidle _ hno =>
  run_ends hinv hidle.1 hno

end Sys2Proof.Machine
end

section
/-! PROOFS. The statements of 70_reset_and_hazards.md about the busy rule: the result of a run that keeps it does not
depend on the latencies, a program whose text keeps R143 keeps it, and a run that breaks it can end otherwise (R143,
R150). -/

namespace Sys2Proof.Machine

/-! ### The outcome of a run that keeps the busy rule (R150) -/

/-- The block once its started operation, if there is one, has committed. -/
def settledBlock (p : Params) (b : Block) : Block :=
  match b.busy, latchedInstr b.opl with
  | true, some i => commitOf p b i
  | _, _ => b

theorem settledBlock_of_idle {b : Block} (hb : b.busy = false) (p : Params) : settledBlock p b = b := by
  rw [settledBlock, hb]

theorem settledBlock_of_busy {b : Block} {i : Instr} (hb : b.busy = true) (hi : latchedInstr b.opl = some i)
    (p : Params) : settledBlock p b = commitOf p b i := by
  rw [settledBlock, hb, hi]

/-- What one access of the host makes of an idle block (R44, R45). -/
def accessBlock (p : Params) (b : Block) : HostOp → Block
  | .rd a => if (regAt p a).isSome then b else b.setHerr
  | .wr a v =>
    match regAt p a with
    | none => b.setHerr
    | some r => if writeLegal p r v then writeReg r v b else b.setHerr
  | .wait => b

theorem hostMove_blk_of_idle {s : State} {op : HostOp} {rest : List HostOp} (hidle : s.idle)
    (hprog : s.program = op :: rest) : (hostMove s).blk = accessBlock s.cfg s.blk op := by
  cases op with
  | rd a =>
    rw [hostMove_of_rd hprog, accessBlock]
    cases ha : regAt s.cfg a with
    | none => rw [hostRead_idle_unmapped hidle ha]; rfl
    | some r => rw [hostRead_idle_mapped hidle ha]; rfl
  | wr a v =>
    rw [hostMove_of_wr hprog, accessBlock]
    cases ha : regAt s.cfg a with
    | none => rw [hostWrite_idle_unmapped hidle ha]; rfl
    | some r => rw [hostWrite_idle_mapped hidle ha]
  | wait =>
    rw [hostMove_of_wait hidle.1 hprog, hidle.2]
    rfl

/-- The block at the end, where the host makes its accesses one after the other, each after the commit of the operation
before it: a function of the constants, the block and the accesses other than reads of `STATUS`. -/
def State.outcome (s : State) : Block :=
  (dataAccesses s.program).foldl (fun b op => settledBlock s.cfg (accessBlock s.cfg b op)) (settledBlock s.cfg s.blk)

theorem State.outcome_congr {s t : State} (hcfg : t.cfg = s.cfg)
    (haccesses : dataAccesses t.program = dataAccesses s.program)
    (hblk : settledBlock s.cfg t.blk = settledBlock s.cfg s.blk) : t.outcome = s.outcome := by
  rw [State.outcome, State.outcome, hcfg, haccesses, hblk]

/-- Where the run is over nothing is left to happen. -/
theorem State.outcome_of_over {s : State} (h : s.over) : s.outcome = s.blk := by
  obtain ⟨hprog, hb⟩ := h
  rw [State.outcome, hprog, settledBlock_of_idle hb]
  rfl

theorem dataAccesses_cons_of_readsStatus {op : HostOp} (h : readsStatus op = true) (rest : List HostOp) :
    dataAccesses (op :: rest) = dataAccesses rest := by
  simp [dataAccesses, h]

theorem dataAccesses_cons_of_not_readsStatus {op : HostOp} (h : readsStatus op = false) (rest : List HostOp) :
    dataAccesses (op :: rest) = op :: dataAccesses rest := by
  simp [dataAccesses, h]

/-- A read of `STATUS` changes nothing of the block, and leaves the other accesses to be made (R48). -/
theorem hostMove_of_readsStatus {s : State} {op : HostOp} {rest : List HostOp} (hr : s.rstN = true)
    (hprog : s.program = op :: rest) (hop : readsStatus op = true) :
    (hostMove s).blk = s.blk ∧ dataAccesses (hostMove s).program = dataAccesses s.program := by
  have hskip := dataAccesses_cons_of_readsStatus hop rest
  cases op with
  | rd a =>
    obtain rfl : a = statusAddr := eq_of_beq hop
    rw [hprog, hskip, hostMove_of_rd hprog, hostRead_status hr]
    exact ⟨rfl, rfl⟩
  | wr a v => cases hop
  | wait =>
    rw [hostMove_of_wait hr hprog, hprog]
    cases s.blk.busy with
    | true => exact ⟨rfl, congrArg dataAccesses hprog⟩
    | false => exact ⟨rfl, hskip.symm⟩

/-- A move of the host that keeps the busy rule makes the access that the outcome counts on next. -/
theorem hostMove_outcome {s : State} (hr : s.rstN = true)
    (hkeeps : s.blk.busy = false ∨ s.program.head?.all readsStatus = true) : (hostMove s).outcome = s.outcome := by
  cases hprog : s.program with
  | nil => rw [hostMove, hprog]
  | cons op rest =>
    cases hop : readsStatus op with
    | true =>
      obtain ⟨hblk, haccesses⟩ := hostMove_of_readsStatus hr hprog hop
      exact State.outcome_congr (hostMove_cfg s) haccesses (congrArg _ hblk)
    | false =>
      have hb : s.blk.busy = false := hkeeps.resolve_right (by simp [hprog, hop])
      rw [State.outcome, State.outcome, hostMove_cfg, hostMove_program_of_idle ⟨hr, hb⟩ hprog,
        hostMove_blk_of_idle ⟨hr, hb⟩ hprog, hprog, dataAccesses_cons_of_not_readsStatus hop, List.foldl_cons,
        settledBlock_of_idle hb]

theorem accessKeepsBusyRule_at_host {s : State} (hturn : nextTurn s = .host) (h : accessKeepsBusyRule s = true) :
    s.blk.busy = false ∨ s.program.head?.all readsStatus = true := by
  simpa [accessKeepsBusyRule, hturn] using h

/-- The outcome stays the same through every step that keeps the busy rule: the commit does now what the next access
would have waited for. -/
theorem step_outcome {s t : State} (hr : s.rstN = true) (hno : s.noReset) (hkeeps : accessKeepsBusyRule s = true)
    (hstep : step s = .next t) : t.outcome = s.outcome := by
  obtain ⟨hturn, rfl⟩ | ⟨-, -, rfl⟩ | ⟨-, hb, i, hi, rfl⟩ | ⟨hturn, -⟩ | ⟨-, rfl⟩ := step_cases hstep
  · exact hostMove_outcome (s := s.popTurn) hr (accessKeepsBusyRule_at_host (s := s) hturn hkeeps)
  · rfl
  · refine State.outcome_congr rfl rfl ?_
    rw [settledBlock_of_busy hb hi, settledBlock_of_idle (commitOf_busy s.cfg s.blk i)]
  · exact absurd hturn (nextTurn_ne_assertReset hno)
  · rfl

theorem keepsBusyRule_succ {s t : State} (hstep : step s = .next t) (k : Nat) :
    keepsBusyRule (k + 1) s = (accessKeepsBusyRule s && keepsBusyRule k t) := by
  rw [keepsBusyRule, hstep]

/-- A run of `k + 1` steps that answers a state made a first step that answers one. -/
theorem exists_step_of_runFor {s t : State} {k : Nat} (h : runFor (k + 1) s = .next t) :
    ∃ u, step s = .next u ∧ runFor k u = .next t := by
  cases hstep : step s with
  | next u => exact ⟨u, rfl, (runFor_succ hstep k).symm.trans h⟩
  | fault r =>
    have hcore : Sys2Proof.core.step s = .fault r := hstep
    simp [runFor, Host.Core.run, hcore] at h
  | refused r =>
    have hcore : Sys2Proof.core.step s = .refused r := hstep
    simp [runFor, Host.Core.run, hcore] at h

/-- A run that keeps the busy rule and comes to its end ends with the outcome of its start. -/
theorem run_ends_with_outcome {s t : State} {k : Nat} (hr : s.rstN = true) (hno : s.noReset)
    (hkeeps : keepsBusyRule k s = true) (hrun : runFor k s = .next t) (hover : t.over) : t.blk = s.outcome := by
  induction k generalizing s with
  | zero =>
    obtain rfl : s = t := step_next_eq.mp hrun
    exact (State.outcome_of_over hover).symm
  | succ k ih =>
    obtain ⟨u, hstep, hrest⟩ := exists_step_of_runFor hrun
    rw [keepsBusyRule_succ hstep, Bool.and_eq_true] at hkeeps
    obtain ⟨hfirst, hlater⟩ := hkeeps
    calc t.blk = u.outcome := ih (released_of_step hr hno hstep) (noReset_of_step hno hstep) hlater hrest
      _ = s.outcome := step_outcome hr hno hfirst hstep

/-- Settles O56: both runs end with the outcome of their start, and it is the same for both. -/
theorem latencyDoesNotChangeTheResult : Obligations.LatencyDoesNotChangeTheResult := by
  intro s s' t t' k k' _ hidle hcfg hblk hrst haccesses hno hno' hkeeps hkeeps' hrun hover hrun' hover'
  calc t'.blk = s'.outcome := run_ends_with_outcome (hrst.trans hidle.1) hno' hkeeps' hrun' hover'
    _ = s.outcome := State.outcome_congr hcfg haccesses (congrArg _ hblk)
    _ = t.blk := (run_ends_with_outcome hidle.1 hno hkeeps hrun hover).symm

/-! ### A program whose text keeps R143 keeps the busy rule -/

/-- A program that keeps R143 after a command keeps it where there was none. -/
theorem disciplinedFrom_of_le {issued issued' : Bool} (hle : issued' ≤ issued) {ops : List HostOp}
    (h : disciplinedFrom issued ops = true) : disciplinedFrom issued' ops = true := by
  induction ops with
  | nil => rfl
  | cons op rest ih =>
    cases op with
    | wait => exact h
    | rd a =>
      simp only [disciplinedFrom, Bool.and_eq_true, Bool.or_eq_true, Bool.not_eq_true'] at h ⊢
      obtain ⟨ha, hrest⟩ := h
      exact ⟨ha.imp_left fun hissued : issued = false => Bool.eq_false_of_le_false (hissued ▸ hle), ih hrest⟩
    | wr a v =>
      simp only [disciplinedFrom, Bool.and_eq_true, Bool.not_eq_true'] at h ⊢
      obtain ⟨hissued, hrest⟩ := h
      exact ⟨Bool.eq_false_of_le_false (hissued ▸ hle), hrest⟩

/-- What a program that keeps R143 keeps true of every state of its runs: the accesses left keep R143 after the started
operation, if there is one; and none is started while reset is held (R140). -/
structure State.Disciplined (s : State) : Prop where
  program : disciplinedFrom s.blk.busy s.program = true
  released : s.blk.busy = true → s.rstN = true

@[simp] theorem hostRead_busy (a : Addr) (s : State) : (hostRead a s).blk.busy = s.blk.busy := by
  obtain h | h := hostRead_blk a s <;> rw [h]
  rfl

/-- `BUSY` after a write to a block that is not busy: an issue, at most (R62). -/
theorem hostWrite_busy_le {s : State} (hb : s.blk.busy = false) (a : Addr) (v : Word) :
    (hostWrite a v s).blk.busy ≤ (a == cmdAddr && (decode v).isOk) := by
  obtain ⟨-, h⟩ | ⟨-, h⟩ | ⟨-, -, r, hreg, -, h⟩ := hostWrite_cases a v s
  · simp [h, hb]
  · simp [h, hb]
  · obtain ⟨rfl, ⟨i, hi⟩, -⟩ | ⟨-, -, hw⟩ | ⟨hw, -, -⟩ := writeReg_cases r v s.blk
    · simp [eq_cmdAddr_of_regAt hreg, hi, Except.isOk, Except.toBool, Bool.le_true]
    · simp [h, hw, hb]
    · simp [h, hw, hb]

/-- A `WAIT` is not over while an operation runs. -/
theorem idle_of_pollDone {s : State} (hs : s.Disciplined)
    (hpoll : pollDone (hostRead statusAddr s) = true) : s.blk.busy = false := by
  cases hr : s.rstN with
  | true => rwa [hostRead_status hr, pollDone_gotRead_statusWord, Bool.not_eq_true'] at hpoll
  | false => exact Bool.eq_false_iff.mpr fun hb => Bool.false_ne_true (hr.symm.trans (hs.released hb))

theorem hostMove_disciplinedFrom {s : State} (hs : s.Disciplined) :
    disciplinedFrom (hostMove s).blk.busy (hostMove s).program = true := by
  have hdisc := hs.program
  obtain ⟨-, h⟩ | ⟨a, rest, hp, h⟩ | ⟨a, v, rest, hp, h⟩ | ⟨rest, hp, ⟨hpoll, h⟩ | ⟨-, h⟩⟩ := hostMove_cases s <;>
    rw [h]
  · exact hdisc
  · rw [hp, disciplinedFrom, Bool.and_eq_true] at hdisc
    simpa using hdisc.2
  · rw [hp, disciplinedFrom, Bool.and_eq_true, Bool.not_eq_true'] at hdisc
    obtain ⟨hb, hrest⟩ := hdisc
    exact disciplinedFrom_of_le (hostWrite_busy_le hb a v) hrest
  · rw [hp, disciplinedFrom] at hdisc
    simpa [idle_of_pollDone hs hpoll] using hdisc
  · simpa using hdisc

theorem disciplined_of_step {s t : State} (hs : s.Disciplined) (hstep : step s = .next t) : t.Disciplined where
  program := by
    obtain ⟨-, rfl⟩ | ⟨-, -, rfl⟩ | ⟨-, -, i, -, rfl⟩ | ⟨-, rfl⟩ | ⟨-, rfl⟩ := step_cases hstep
    · exact hostMove_disciplinedFrom (s := s.popTurn) ⟨hs.program, hs.released⟩
    · exact hs.program
    · exact disciplinedFrom_of_le (by simp) hs.program
    · exact disciplinedFrom_of_le (Bool.false_le _) hs.program
    · exact hs.program
  released := by
    intro hb
    cases step_blockMove hstep with
    | quiet _ hblk hrst => exact hrst.trans (hs.released (hblk ▸ hb))
    | mark _ hreleased _ hrst => exact hrst.trans hreleased
    | write _ hidle _ _ _ _ _ _ _ _ hrst => exact hrst.trans hidle.1
    | commit _ _ _ hblk _ => simp [hblk] at hb
    | assertReset _ hblk _ => simp [hblk, Block.reset] at hb
    | releaseReset _ _ hrst => exact hrst

/-- After a command a program that keeps R143 can only read `STATUS` next. -/
theorem readsStatus_of_disciplinedFrom {ops : List HostOp} (h : disciplinedFrom true ops = true) :
    ops.head?.all readsStatus = true := by
  cases ops with
  | nil => rfl
  | cons op rest =>
    cases op with
    | wait => rfl
    | rd a =>
      simp only [disciplinedFrom, Bool.not_true, Bool.false_or, Bool.and_eq_true] at h
      exact h.1
    | wr a v => simp [disciplinedFrom] at h

theorem accessKeepsBusyRule_of_disciplined {s : State} (hs : s.Disciplined) : accessKeepsBusyRule s = true := by
  cases hb : s.blk.busy with
  | false => simp [accessKeepsBusyRule, hb]
  | true => simp [accessKeepsBusyRule, readsStatus_of_disciplinedFrom (hb ▸ hs.program)]

theorem keepsBusyRule_of_disciplined {s : State} (hs : s.Disciplined) (k : Nat) : keepsBusyRule k s = true := by
  induction k generalizing s with
  | zero => rfl
  | succ k ih =>
    rw [keepsBusyRule, accessKeepsBusyRule_of_disciplined hs, Bool.true_and]
    cases hstep : step s with
    | next t => exact ih (disciplined_of_step hs hstep)
    | fault r => rfl
    | refused r => rfl

/-- Settles O58: the idle start is disciplined, and every step keeps it so. -/
theorem disciplinedProgramsKeepTheBusyRule : Obligations.DisciplinedProgramsKeepTheBusyRule :=
  fun _ k ⟨hr, hb⟩ hprog => keepsBusyRule_of_disciplined ⟨hb ▸ hprog, fun _ => hr⟩ k

/-! ### Two ends of a program that breaks R143 -/

/-- The shape of P4 of the spec's programs: `B58ENC`, a write to `BUF[0]` with no `WAIT` before it, then a `WAIT`. -/
def unwaitedWrite (turns : List Turn) : State :=
  { State.reset with program := [.wr 0x000 3, .wr 0x100 1, .wait], turns := turns }

/-- Settles O59: with no turns listed the commit comes before the write, which then takes effect; where the host has the
first two turns the write comes before the commit, and is dropped and marked. -/
theorem brokenBusyRuleCanChangeTheResult : Obligations.BrokenBusyRuleCanChangeTheResult := by
  refine ⟨unwaitedWrite [], unwaitedWrite [.host, .host], _, _, 4, 4, by decide, by decide, rfl, rfl, rfl, rfl,
    by decide, by decide, by decide, by decide, by decide, rfl, by decide, rfl, by decide, fun hblk => ?_⟩
  exact absurd (congrArg Block.herr hblk) (by decide)

end Sys2Proof.Machine
end
